-- ==== Sys2Proof/Word.lean ====
section
/-! DEFINITION. The word types of the block and nothing else. -/

namespace Sys2Proof

/-- A register word: every register is 32 bits wide (10_state.md R22). -/
abbrev Word := BitVec 32

/-- A sample: 8 bits, unsigned (00_scope.md R8). -/
abbrev Byte := BitVec 8

end Sys2Proof
end

