-- ==== Sys2Proof/Config.lean ====
section
/-! DEFINITION. What an implementation or a platform fixes: the block's constants, the platform's parameters
(00_scope.md R7) as plain data, and the one free value of the model. -/

namespace Sys2Proof

/-- The direction of an access, on the register bus and in `memAdmits(addr, dir)` (00_scope.md R7). -/
inductive Dir where
  | read
  | write
deriving DecidableEq, Repr

namespace Config

/-- BLOCK_ID (10_state.md R23): "BR" in the upper half, interface version 1 in the lower. -/
def blockId : Word := 0x42520001#32

/-- Bytes in the register window (00_scope.md R1, R7: 4 KiB). -/
def windowSize : Nat := 4096

/-- FREE VALUE (log entry 8). Whether the engine, in the command numbered `n`, reads the source byte at `addr`
although its weight in the blend is 0: 20_memory.md R66 leaves that open. -/
opaque readsZeroWeight (n addr : Nat) : Bool

end Config

/-- A range of sample addresses at which the platform completes no access of the engine in the direction `dir`. That
a host access is not governed by it is the model's choice (log entry 29). -/
structure RefusedRange where
  dir  : Dir
  base : Nat
  size : Nat
deriving DecidableEq, Repr

/-- The platform's parameters (00_scope.md R7), fixed for a machine: no step changes them. -/
structure Platform where
  /-- ADDR_WIDTH: 32 as decided; a model may take 1 to 32. -/
  addrWidth : Nat
  /-- REG_BASE divided by 4096: REG_BASE is 4 KiB aligned. OPEN (log entry 5). -/
  regPage : Nat
  /-- Whether the register window lies inside the sample-memory range (10_state.md R43). OPEN (log entry 5). -/
  windowInSample : Bool
  /-- Where `memAdmits` is false outside the window. OPEN (log entry 4). -/
  refused : List RefusedRange
deriving DecidableEq, Repr

/-- The platform's parameters the model starts with (log entries 4, 5 and 6). -/
def Platform.default : Platform :=
  { addrWidth := 32, regPage := 0, windowInSample := false, refused := [] }

end Sys2Proof
end

