-- ==== Sys2Proof/Machine/Bus.lean ====
section
/-! DEFINITION. The host's side of the register window: the register map and one access to it (10_state.md R22,
30_encoding.md R83). -/

namespace Sys2Proof.Machine

/-- The ten registers of the map (10_state.md R22). -/
inductive Reg where
  | id | cmd | status | irqEn | srcBase | srcDim | srcCh | dstBase | dstDim | cmdLatch
deriving DecidableEq, Repr

/-- A register's byte offset from REG_BASE (10_state.md R22). -/
def Reg.off : Reg → BitVec 12
  | .id       => 0x000#12
  | .cmd      => 0x004#12
  | .status   => 0x008#12
  | .irqEn    => 0x00C#12
  | .srcBase  => 0x010#12
  | .srcDim   => 0x014#12
  | .srcCh    => 0x018#12
  | .dstBase  => 0x01C#12
  | .dstDim   => 0x020#12
  | .cmdLatch => 0x024#12

/-- The register map in the order of 10_state.md R22. -/
def regMap : List Reg :=
  [.id, .cmd, .status, .irqEn, .srcBase, .srcDim, .srcCh, .dstBase, .dstDim, .cmdLatch]

/-- The register at an offset; none at the reserved offsets (10_state.md R37). -/
def regAt (off : BitVec 12) : Option Reg :=
  regMap.find? (fun r => r.off == off)

/-- How wide an access the platform presents (20_memory.md R64). -/
inductive Size where
  | byte | half | word | dword
deriving DecidableEq, Repr

/-- One host access to the register window: its direction, its width, its byte offset in the 4 KiB window and,
for a write, its data word (30_encoding.md R83, R85). A read carries no data: the field is then 0. -/
structure Access where
  dir  : Dir
  size : Size
  off  : BitVec 12
  data : Word
deriving DecidableEq, Repr

/-- Whether an access is a 32-bit access at an offset that is a multiple of 4 (20_memory.md R64). -/
def Access.aligned (a : Access) : Bool :=
  a.size == .word && a.off.extractLsb' 0 2 == 0#2

/-- Register read of `r`, as the bus carries it. -/
def readOf (r : Reg) : Access := { dir := .read, size := .word, off := r.off, data := 0#32 }

/-- Register write of `d` to `r`, as the bus carries it. -/
def writeOf (r : Reg) (d : Word) : Access := { dir := .write, size := .word, off := r.off, data := d }

end Sys2Proof.Machine
end

