-- ==== Sys2Proof/Machine/Program.lean ====
section
/-! DEFINITION. The host program: the statements of the host notation (30_encoding.md R86) and the expansions of its
pseudo-instructions (R87). The notation has no binary encoding; a program is a list of statements. -/

namespace Sys2Proof.Machine

/-- One of the host's temporaries t0 to t7 (30_encoding.md R86). -/
abbrev Temp := Fin 8

/-- A label of a host program. -/
abbrev Label := Nat

/-- A statement of the host notation (30_encoding.md R86). -/
inductive Stmt where
  /-- An access to the register window: `WR32` and `RD32` (below), and every other access a host's bus can present
  (20_memory.md R64, 10_state.md R37). A read's value goes into the temporary, if one is named. -/
  | bus (t : Option Temp) (a : Access)
  /-- `WRMEM addr, b0, b1, ...` -/
  | wrmem (addr : Word) (bytes : List Byte)
  /-- `RDMEM tN, addr` -/
  | rdmem (t : Temp) (addr : Word)
  /-- `BSET tN, bit, label` -/
  | bset (t : Temp) (bit : Fin 32) (l : Label)
  /-- `BCLR tN, bit, label` -/
  | bclr (t : Temp) (bit : Fin 32) (l : Label)
  /-- `FENCE` -/
  | fence
  /-- `HALT` -/
  | halt
  /-- `label:` -/
  | label (l : Label)
deriving DecidableEq, Repr

/-- `WR32 REG, imm32` (30_encoding.md R86). -/
def wr32 (r : Reg) (imm : Word) : Stmt := .bus none (writeOf r imm)

/-- `RD32 tN, REG` (30_encoding.md R86). -/
def rd32 (t : Temp) (r : Reg) : Stmt := .bus (some t) (readOf r)

/-- The pseudo-instruction `RESIZE.NN` (30_encoding.md R87). -/
def stmtResizeNn : Stmt := wr32 .cmd 0x00000001#32

/-- The pseudo-instruction `RESIZE.BL` (30_encoding.md R87). -/
def stmtResizeBl : Stmt := wr32 .cmd 0x00000002#32

/-- `(h << 16) | w` (30_encoding.md R87). -/
def dimImm (w h : BitVec 16) : Word := (BitVec.setWidth 32 h <<< 16) ||| BitVec.setWidth 32 w

/-- `SETSRC base, w, h, c` (30_encoding.md R87). -/
def setSrcStmts (base : Word) (w h : BitVec 16) (c : Word) : List Stmt :=
  [wr32 .srcBase base, wr32 .srcDim (dimImm w h), wr32 .srcCh c]

/-- `SETDST base, w, h` (30_encoding.md R87). -/
def setDstStmts (base : Word) (w h : BitVec 16) : List Stmt :=
  [wr32 .dstBase base, wr32 .dstDim (dimImm w h)]

/-- `WAIT tN` (30_encoding.md R87), with the fresh label `l`. -/
def waitStmts (t : Temp) (l : Label) : List Stmt :=
  [.label l, rd32 t .status, .bset t 0 l]

/-- `CLRST` (30_encoding.md R87). -/
def stmtClrst : Stmt := wr32 .status 0x0000000E#32

end Sys2Proof.Machine
end

