-- ==== Sys2Proof/Machine/State.lean ====
section
/-! DEFINITION. The machine's state as plain data (10_state.md R44), its state after reset, and one named update per
field. -/

namespace Sys2Proof.Machine

/-- STATUS (10_state.md R25 to R29). -/
structure Status where
  busy    : Bool
  done    : Bool
  err     : Bool
  dropped : Bool
  errCode : BitVec 4
deriving DecidableEq, Repr

/-- The two resize modes (00_scope.md R4): what LATCH.op, the opcode of an accepted command, can be (log entry 27). -/
inductive Mode where
  | nearest
  | bilinear
deriving DecidableEq, Repr

/-- The record in LATCH (10_state.md R38). -/
structure Latch where
  op : Mode
  sb : Word
  sw : BitVec 16
  sh : BitVec 16
  ch : BitVec 3
  db : Word
  dw : BitVec 16
  dh : BitVec 16
deriving DecidableEq, Repr

/-- Why a step stops. Safe in every case: the chip goes on and the model says nothing of that run. The first three
are the model faults of 60_exceptions.md R175; all four are recorded in `State.faults` by the step that raises them,
and the next step stops with them (log entry 7). -/
inductive Fault where
  /-- Raised by a host access to sample memory that breaks 70_reset_and_hazards.md R200. Safe. -/
  | hazard
  /-- Raised by the engine or the host reading a sample byte that is undefined (20_memory.md R76). Safe. -/
  | uninitRead
  /-- Raised by a register access that is not an aligned word (20_memory.md R64). Safe. -/
  | regAccessSize
  /-- Raised by a host access to a sample address at or above 2^ADDR_WIDTH (20_memory.md R60; log entry 19). Safe. -/
  | noSuchAddress
deriving DecidableEq, Repr

/-- Why the model has no meaning for a step. -/
inductive Refusal where
  /-- Raised by an arm of `exec` for an instruction that has no meaning yet; no arm does. Safe. -/
  | notModelled (mnemonic : String)
  /-- Raised by a taken host branch to a label that the host program does not define (log entry 18): such a text is
  no program of 30_encoding.md R86. Safe. -/
  | undefinedLabel (l : Label)
deriving DecidableEq, Repr

/-- The block's answer to the host's last register access (log entry 11). -/
inductive BusResp where
  /-- No register access yet. -/
  | idle
  /-- A write was taken. -/
  | ack
  /-- A read returned this value (41_register_access.md R140). -/
  | data (w : Word)
  /-- A bus error (20_memory.md R64). -/
  | error
deriving DecidableEq, Repr

/-- Which agent moves: one entry of the schedule (60_exceptions.md R169; log entry 2). -/
inductive Turn where
  | host
  | engine
  | reset
deriving DecidableEq, Repr

/-- The host: its program, the place of its next statement, its temporaries t0 to t7, and whether it executed HALT
(30_encoding.md R86, 70_reset_and_hazards.md R207). -/
structure HostCtx where
  prog   : List Stmt
  pc     : Nat
  temps  : Vector Word 8
  halted : Bool
deriving DecidableEq, Repr

/-- Sample memory: the bytes that are defined, addresses strictly rising. An address not listed is undefined
(10_state.md R44 `none`; log entry 14). -/
abbrev Mem := List Host.Cell

structure State where
  /-- STATUS, 10_state.md R25 to R29. -/
  status   : Status
  /-- IRQ_EN: DONE_IE, ERR_IE, DROPPED_IE in bits 0, 1, 2, 10_state.md R30. -/
  irqEn    : BitVec 3
  /-- SRC_BASE, 10_state.md R31: the bits from ADDR_WIDTH up are 0. -/
  srcBase  : Word
  /-- SRC_DIM, 10_state.md R32. -/
  srcW     : BitVec 16
  srcH     : BitVec 16
  /-- SRC_CH.CH, 10_state.md R33. -/
  ch       : BitVec 3
  /-- DST_BASE, 10_state.md R34. -/
  dstBase  : Word
  /-- DST_DIM, 10_state.md R35. -/
  dstW     : BitVec 16
  dstH     : BitVec 16
  /-- CMD_LATCH, 10_state.md R36. -/
  cmdLatch : Word
  /-- LATCH, 10_state.md R38. -/
  latch    : Option Latch
  /-- Sample memory, 20_memory.md R60. -/
  mem      : Mem
  /-- The model-only fault list, 10_state.md R44, newest first. -/
  faults   : List Fault
  /-- The block's answer on the bus (the model's own field, log entry 11). -/
  resp     : BusResp
  /-- The host. -/
  host     : HostCtx
  /-- The order in which the agents move (the model's own field, log entry 2). -/
  sched    : List Turn
  /-- The platform's parameters, 00_scope.md R7. -/
  platform : Platform
  /-- How many commands the engine has ended: the argument of the free choice of log entry 8 (the model's own). -/
  ctr      : Nat
deriving DecidableEq, Repr

/-- STATUS after reset (70_reset_and_hazards.md R190). -/
def Status.reset : Status :=
  { busy := false, done := false, err := false, dropped := false, errCode := 0#4 }

/-- The host before a program is loaded (log entries 1 and 16). -/
def HostCtx.reset : HostCtx :=
  { prog := [], pc := 0, temps := Vector.replicate 8 0#32, halted := false }

/-- The machine right after reset (70_reset_and_hazards.md R190, R193). -/
def State.reset : State :=
  { status := Status.reset
    irqEn := 0#3
    srcBase := 0#32
    srcW := 0#16
    srcH := 0#16
    ch := 0#3
    dstBase := 0#32
    dstW := 0#16
    dstH := 0#16
    cmdLatch := 0#32
    latch := none
    mem := []
    faults := []
    resp := .idle
    host := HostCtx.reset
    sched := []
    platform := Platform.default
    ctr := 0 }

namespace State

def setStatus (s : State) (v : Status) : State := { s with status := v }
def setIrqEn (s : State) (v : BitVec 3) : State := { s with irqEn := v }
def setSrcBase (s : State) (v : Word) : State := { s with srcBase := v }
def setSrcDim (s : State) (w h : BitVec 16) : State := { s with srcW := w, srcH := h }
def setCh (s : State) (v : BitVec 3) : State := { s with ch := v }
def setDstBase (s : State) (v : Word) : State := { s with dstBase := v }
def setDstDim (s : State) (w h : BitVec 16) : State := { s with dstW := w, dstH := h }
def setCmdLatch (s : State) (v : Word) : State := { s with cmdLatch := v }
def setLatch (s : State) (v : Option Latch) : State := { s with latch := v }
def setMem (s : State) (v : Mem) : State := { s with mem := v }
def setFaults (s : State) (v : List Fault) : State := { s with faults := v }
def setResp (s : State) (v : BusResp) : State := { s with resp := v }
def setHost (s : State) (v : HostCtx) : State := { s with host := v }
def setSched (s : State) (v : List Turn) : State := { s with sched := v }
def setCtr (s : State) (v : Nat) : State := { s with ctr := v }

end State

end Sys2Proof.Machine
end

