-- ==== Sys2Proof/Machine/Ops.lean ====
section
/-! DEFINITION. The named operations over sample memory, the error state and the bus, which every meaning uses. -/

namespace Sys2Proof.Machine

/-! Sample memory (20_memory.md R60, R63, R76). -/

/-- The canonical form of sample memory: addresses strictly rising, so equal memories are equal lists. An address not
listed is undefined, so no entry can equal what an unlisted address reads as. -/
abbrev Mem.wf (m : Mem) : Prop := m.Pairwise (fun x y => x.1 < y.1)

/-- `mem a`: the byte at `a`, or undefined (10_state.md R44). -/
def readByte : Mem → Nat → Option Byte
  | [], _ => none
  | (k, v) :: r, a => if k = a then some v else readByte r a

/-- `MemWrite(a, 1, v)` (00_scope.md R11). -/
def writeByte : Mem → Nat → Byte → Mem
  | [], a, v => [(a, v)]
  | (k, w) :: r, a, v =>
    if a < k then (a, v) :: (k, w) :: r
    else if a = k then (a, v) :: r
    else (k, w) :: writeByte r a v

/-- The bytes `bs` at the addresses `b, b+1, ...`. -/
def cellsFrom : Nat → List Byte → Mem
  | _, [] => []
  | b, v :: r => (b, v) :: cellsFrom (b + 1) r

/-- Memory with the `bs.length` bytes from `b` on written with `bs`, each exactly once (20_memory.md R66). -/
def fillRange (m : Mem) (b : Nat) (bs : List Byte) : Mem :=
  m.filter (fun c => c.1 < b) ++ cellsFrom b bs ++ m.filter (fun c => b + bs.length ≤ c.1)

/-- Memory with the `n` bytes from `b` on undefined (60_exceptions.md R163, 70_reset_and_hazards.md R192). -/
def undefRange (m : Mem) (b n : Nat) : Mem :=
  m.filter (fun c => c.1 < b || b + n ≤ c.1)

/-! The platform (00_scope.md R7). -/

/-- 2^ADDR_WIDTH, the number of sample addresses (20_memory.md R60). -/
def addrLimit (p : Platform) : Nat := 2 ^ p.addrWidth

/-- REG_BASE (00_scope.md R7). -/
def regBase (p : Platform) : Nat := p.regPage * Config.windowSize

/-- Whether the sample address `a` falls on the register window (20_memory.md R67). -/
def inWindow (p : Platform) (a : Nat) : Bool :=
  p.windowInSample && regBase p ≤ a && a < regBase p + Config.windowSize

/-- Whether a refused range covers the access. -/
def rangeCovers (r : RefusedRange) (a : Nat) (d : Dir) : Bool :=
  r.dir == d && r.base ≤ a && a < r.base + r.size

/-- `memAdmits(addr, dir)` (20_memory.md R76), of the engine's accesses: false on the register window (R67) and where
the platform refuses. -/
def memAdmits (p : Platform) (a : Nat) (d : Dir) : Bool :=
  !inWindow p a && !p.refused.any (fun r => rangeCovers r a d)

/-! Errors (60_exceptions.md R160, R164, R165). -/

/-- The error causes (60_exceptions.md R160). -/
inductive ErrCause where
  | invalidArgument
  | unsupportedFormat
  | outOfRange
  | illegalCommand
  | overlap
  | invalidSource
  | busError
deriving DecidableEq, Repr

/-- ERR_CODE of a cause (60_exceptions.md R160); NONE is 0x0. -/
def ErrCause.code : ErrCause → BitVec 4
  | .invalidArgument   => 0x1#4
  | .unsupportedFormat => 0x2#4
  | .outOfRange        => 0x3#4
  | .illegalCommand    => 0x4#4
  | .overlap           => 0x5#4
  | .invalidSource     => 0x6#4
  | .busError          => 0x7#4

/-- Error entry, `raise Err(code)` (60_exceptions.md R164): ERR and ERR_CODE are latched and control goes nowhere. -/
def raiseErr (e : ErrCause) (s : State) : State :=
  s.setStatus { s.status with err := true, errCode := e.code }

/-- Error return (60_exceptions.md R165): ERR and ERR_CODE are cleared together. -/
def clearErr (s : State) : State :=
  s.setStatus { s.status with err := false, errCode := 0#4 }

/-! The bus. -/

/-- The block returns `w` to the host's register read (41_register_access.md R140). -/
def respondData (w : Word) (s : State) : State := s.setResp (.data w)

/-- The block has taken the host's register write (41_register_access.md R141). -/
def respondAck (s : State) : State := s.setResp .ack

/-- The block answers with a bus error (20_memory.md R64). -/
def respondError (s : State) : State := s.setResp .error

/-! Model faults and outcomes. -/

/-- Records a model fault; none is ever cleared (60_exceptions.md R175). -/
def recordFault (f : Fault) (s : State) : State := s.setFaults (f :: s.faults)

/-- What follows an instruction that gave a next state. -/
def onNext (o : Host.Outcome State Fault Refusal) (f : State → State) : Host.Outcome State Fault Refusal :=
  match o with
  | .next s    => .next (f s)
  | .fault r   => .fault r
  | .refused r => .refused r

end Sys2Proof.Machine
end

