-- ==== Sys2Proof/Machine/Operands.lean ====
section
/-! DEFINITION. The operand forms: fields of a written word (30_encoding.md R85), the operands a command takes from
the configuration registers (R84), and buffer descriptors (00_scope.md R12). -/

namespace Sys2Proof.Machine

/-! Fields of a register word. -/

/-- `d[15:0]`: SRC_W, DST_W. -/
def lowHalf (d : Word) : BitVec 16 := d.extractLsb' 0 16

/-- `d[31:16]`: SRC_H, DST_H. -/
def highHalf (d : Word) : BitVec 16 := d.extractLsb' 16 16

/-- `d[2:0]`: CH, IRQ_EN. -/
def lowThree (d : Word) : BitVec 3 := d.extractLsb' 0 3

/-- `d[ADDR_WIDTH-1:0]`, zero-extended: SRC_BASE, DST_BASE (10_state.md R31). -/
def addrField (aw : Nat) (d : Word) : Word := BitVec.ofNat 32 (d.toNat % 2 ^ aw)

/-- The DIM word `{H, W}` (41_register_access.md R140). -/
def dimWord (w h : BitVec 16) : Word := BitVec.setWidth 32 (h ++ w)

/-- The byte at `REG_BASE + offset + k` of a register word, when the platform presents it as four bytes
(20_memory.md R62): bits `[8k+7 : 8k]`. -/
def regByte (w : Word) (k : Fin 4) : Byte := w.extractLsb' (8 * k.val) 8

/-! Buffers. -/

/-- A buffer descriptor `(base, W, H, C)` (00_scope.md R12). -/
structure Buffer where
  base : Nat
  w    : Nat
  h    : Nat
  c    : Nat
deriving DecidableEq, Repr

/-- `size(W,H,C) = W*H*C` (00_scope.md R12). -/
def Buffer.size (b : Buffer) : Nat := b.w * b.h * b.c

/-- The first address past the buffer. -/
def Buffer.stop (b : Buffer) : Nat := b.base + b.size

/-- The address of the sample at column x, row y, channel c (00_scope.md R12). -/
def Buffer.addr (b : Buffer) (x y c : Nat) : Nat := b.base + (y * b.w + x) * b.c + c

/-- Whether an address lies in `[base, base + W*H*C)`. -/
def Buffer.contains (b : Buffer) (a : Nat) : Bool := b.base ≤ a && a < b.stop

/-- The source descriptor of a latched command (30_encoding.md R84). -/
def Latch.src (L : Latch) : Buffer :=
  { base := L.sb.toNat, w := L.sw.toNat, h := L.sh.toNat, c := L.ch.toNat }

/-- The destination descriptor of a latched command, with the source's channel count (30_encoding.md R84). It is
also the resized buffer after DONE = 1 (40_resize.md R115). -/
def Latch.dst (L : Latch) : Buffer :=
  { base := L.db.toNat, w := L.dw.toNat, h := L.dh.toNat, c := L.ch.toNat }

/-- The operands a command takes from the configuration registers (30_encoding.md R84). -/
def operands (op : Mode) (s : State) : Latch :=
  { op := op, sb := s.srcBase, sw := s.srcW, sh := s.srcH, ch := s.ch,
    db := s.dstBase, dw := s.dstW, dh := s.dstH }

end Sys2Proof.Machine
end

