-- ==== Sys2Proof/Machine/Flags.lean ====
section
/-! DEFINITION. The status flags BUSY, DONE, ERR, DROPPED with ERR_CODE, and the interrupt output (10_state.md R25 to
R30, R40, R41). -/

namespace Sys2Proof.Machine

/-- The STATUS word (41_register_access.md R140): bits [7:4] and [31:12] read 0. -/
def statusWord (st : Status) : Word :=
  BitVec.setWidth 32
    (st.errCode ++ 0b0000#4 ++ BitVec.ofBool st.dropped ++ BitVec.ofBool st.err
      ++ BitVec.ofBool st.done ++ BitVec.ofBool st.busy)

/-- Write-1-to-clear of DONE: bit 1 (10_state.md R26). -/
def clearDoneBit (d : Word) (st : Status) : Status :=
  if d.getLsbD 1 then { st with done := false } else st

/-- Write-1-to-clear of ERR with ERR_CODE: bit 2 (10_state.md R27). -/
def clearErrBit (d : Word) (st : Status) : Status :=
  if d.getLsbD 2 then { st with err := false, errCode := 0#4 } else st

/-- Write-1-to-clear of DROPPED: bit 3 (10_state.md R28). -/
def clearDroppedBit (d : Word) (st : Status) : Status :=
  if d.getLsbD 3 then { st with dropped := false } else st

/-- A register write to STATUS (41_register_access.md R141): d[0] and d[31:4] are ignored. -/
def statusWrite (d : Word) (st : Status) : Status :=
  clearDroppedBit d (clearErrBit d (clearDoneBit d st))

/-- The flags as command acceptance clears them (40_resize.md R100). -/
def acceptFlags (st : Status) : Status := { st with done := false, err := false, errCode := 0#4 }

/-- The flags as the completion of a command that ended without error leaves them (40_resize.md R104). -/
def doneFlags (st : Status) : Status := { st with busy := false, done := true }

/-- The flags as the completion of a command with a refused access leaves them (40_resize.md R104). -/
def busErrorFlags (st : Status) : Status :=
  { st with busy := false, err := true, errCode := ErrCause.busError.code }

/-- DONE_IE (10_state.md R30). -/
def State.doneIe (s : State) : Bool := s.irqEn.getLsbD 0

/-- ERR_IE (10_state.md R30). -/
def State.errIe (s : State) : Bool := s.irqEn.getLsbD 1

/-- DROPPED_IE (10_state.md R30). -/
def State.droppedIe (s : State) : Bool := s.irqEn.getLsbD 2

/-- The interrupt output, a level computed from the state (10_state.md R40). -/
def irq (s : State) : Bool :=
  (s.status.done && s.doneIe) || (s.status.err && s.errIe) || (s.status.dropped && s.droppedIe)

end Sys2Proof.Machine
end

