-- ==== Sys2Proof/Machine/Resample.lean ====
section
/-! DEFINITION. What one destination sample is: its source neighbours, their weights and the truncated blend, in exact
naturals (40_resize.md R102, R103). -/

namespace Sys2Proof.Machine

/-- A source byte and its weight in a blend. -/
structure Tap where
  addr   : Nat
  weight : Nat
deriving DecidableEq, Repr

/-- How one destination sample is made: the floor of the weighted sum of its taps over `divisor`. -/
structure SamplePlan where
  taps    : List Tap
  divisor : Nat
deriving DecidableEq, Repr

/-- A destination column, row and channel. -/
structure Coord where
  dx : Nat
  dy : Nat
  c  : Nat
deriving DecidableEq, Repr

/-- The column, row and channel of the `k`-th byte of a buffer (00_scope.md R12: row-major, channel-interleaved). -/
def Buffer.coord (b : Buffer) (k : Nat) : Coord :=
  { dx := k / b.c % b.w, dy := k / b.c / b.w, c := k % b.c }

/-- The nearest source index (40_resize.md R102, R106): `(d * s) div dd`. -/
def nearestIndex (d s dd : Nat) : Nat := d * s / dd

/-- RESIZE.NN's sample: one source byte, copied (40_resize.md R102). -/
def nearestPlan (L : Latch) (p : Coord) : SamplePlan :=
  let sx := nearestIndex p.dx L.src.w L.dst.w
  let sy := nearestIndex p.dy L.src.h L.dst.h
  { taps := [{ addr := L.src.addr sx sy p.c, weight := 1 }], divisor := 1 }

/-- What `Axis` returns: the two neighbour indexes, the weight numerator and the divisor (40_resize.md R103). -/
structure AxisPos where
  i0 : Nat
  i1 : Nat
  r  : Nat
  a  : Nat
deriving DecidableEq, Repr

/-- `(n, a)` of `Axis`: the scaled coordinate `n / a`, with scale 0 when `dd = 1` (40_resize.md R103). -/
def axisScale (d s dd : Nat) : Nat × Nat :=
  if dd = 1 then (0, 1) else (d * (s - 1), dd - 1)

/-- `Axis(d, s, dd)` (40_resize.md R103, R107). -/
def axis (d s dd : Nat) : AxisPos :=
  let n := (axisScale d s dd).1
  let a := (axisScale d s dd).2
  { i0 := n / a, i1 := min (n / a + 1) (s - 1), r := n % a, a := a }

/-- RESIZE.BL's sample: four neighbours with the weights of 40_resize.md R103, over `ax * ay`. -/
def bilinearPlan (L : Latch) (p : Coord) : SamplePlan :=
  let x := axis p.dx L.src.w L.dst.w
  let y := axis p.dy L.src.h L.dst.h
  { taps :=
      [ { addr := L.src.addr x.i0 y.i0 p.c, weight := (x.a - x.r) * (y.a - y.r) },
        { addr := L.src.addr x.i1 y.i0 p.c, weight := x.r * (y.a - y.r) },
        { addr := L.src.addr x.i0 y.i1 p.c, weight := (x.a - x.r) * y.r },
        { addr := L.src.addr x.i1 y.i1 p.c, weight := x.r * y.r } ],
    divisor := x.a * y.a }

/-- The plan of a latched command's destination sample at `p`. -/
def planAt (L : Latch) (p : Coord) : SamplePlan :=
  match L.op with
  | .nearest  => nearestPlan L p
  | .bilinear => bilinearPlan L p

/-- The plan of a latched command's `k`-th destination byte. -/
def plan (L : Latch) (k : Nat) : SamplePlan := planAt L (L.dst.coord k)

/-- The weighted sum `S` of the taps; undefined when a byte it depends on is. A tap of weight 0 adds nothing,
whatever its byte. -/
def tapSum (m : Mem) : List Tap → Option Nat
  | [] => some 0
  | t :: r =>
    if t.weight = 0 then tapSum m r
    else
      match readByte m t.addr, tapSum m r with
      | some v, some n => some (t.weight * v.toNat + n)
      | _, _ => none

/-- The sample a plan gives: `S div divisor`, truncated, as a byte (40_resize.md R103, R108, R109). -/
def sampleOf (m : Mem) (p : SamplePlan) : Option Byte :=
  match tapSum m p.taps with
  | some n => some (BitVec.ofNat 8 (n / p.divisor))
  | none   => none

/-- The bytes of the destination in address order; undefined when one of them is. -/
def results (m : Mem) (L : Latch) : List Nat → Option (List Byte)
  | [] => some []
  | k :: r =>
    match sampleOf m (plan L k), results m L r with
    | some v, some vs => some (v :: vs)
    | _, _ => none

end Sys2Proof.Machine
end

