-- ==== Sys2Proof/Machine/Engine.lean ====
section
/-! DEFINITION. The engine's one step: the whole work of the latched command and its completion, as one atomic step
(40_resize.md R104, R105; log entry 3). -/

namespace Sys2Proof.Machine

/-- The destination bytes' numbers, `0 .. dw*dh*ch - 1`: one sample each (20_memory.md R66). -/
def sampleNumbers (L : Latch) : List Nat := List.range L.dst.size

/-- Whether the engine reads a tap's byte: always when its weight is not 0, else as the free value says (20_memory.md
R66: "A bilinear neighbour of weight 0 may or may not be read"; log entry 8). -/
def readsTap (n : Nat) (t : Tap) : Bool := t.weight != 0 || Config.readsZeroWeight n t.addr

/-- Whether a read or write of the command's work is not admitted (20_memory.md R76). The admission is tested first:
where every access is admitted, the free value plays no part. DESIGN CHOICE (log entry 30): of the source, only the
taps of the command's samples are read, where R66 leaves open which source bytes the engine reads. -/
def accessRefused (s : State) (L : Latch) : Bool :=
  (sampleNumbers L).any fun k =>
    (plan L k).taps.any (fun t => !memAdmits s.platform t.addr .read && readsTap s.ctr t)
      || !memAdmits s.platform (L.dst.base + k) .write

/-- Whether the engine reads a byte that is undefined (20_memory.md R66, R76). DESIGN CHOICE (log entry 30): a source
byte that is no tap of any sample is not read. -/
def readsUndefined (s : State) (L : Latch) : Bool :=
  (sampleNumbers L).any fun k =>
    (plan L k).taps.any fun t => (readByte s.mem t.addr).isNone && readsTap s.ctr t

/-- Completion with a bus error: ERR, BUS_ERROR, and every destination byte undefined (40_resize.md R104,
60_exceptions.md R163; log entry 9). -/
def endWithBusError (L : Latch) (s : State) : State :=
  (((s.setStatus (busErrorFlags s.status)).setLatch none).setMem
    (undefRange s.mem L.dst.base L.dst.size)).setCtr (s.ctr + 1)

/-- Completion without error: the destination holds `bs`, DONE (40_resize.md R104). -/
def endWithDone (L : Latch) (bs : List Byte) (s : State) : State :=
  (((s.setStatus (doneFlags s.status)).setLatch none).setMem
    (fillRange s.mem L.dst.base bs)).setCtr (s.ctr + 1)

/-- The work of the latched command and its completion (40_resize.md R104). A read of an undefined byte records
UNINIT_READ and supplies no value (20_memory.md R76; log entry 10). -/
def runCommand (L : Latch) (s : State) : State :=
  if accessRefused s L then endWithBusError L s
  else if readsUndefined s L then recordFault .uninitRead s
  else
    match results s.mem L (sampleNumbers L) with
    | some bs => endWithDone L bs s
    | none    => recordFault .uninitRead s

/-- The engine's step, enabled while BUSY = 1; LATCH is then not empty (10_state.md R38, R44; log entry 26). -/
def engineStep (s : State) : State :=
  match s.latch with
  | some L => runCommand L s
  | none   => s

end Sys2Proof.Machine
end

