-- ==== Sys2Proof/Syntax.lean ====
section
/-! DEFINITION. The instructions of the block: one constructor for each row of spec/opcode_table.json. A register
write carries its data word `d` (30_encoding.md R85); a command word carries no operands (R84). -/

namespace Sys2Proof

inductive Instr where
  /-- RESIZE.NN: the word 0x0000_0001 written to CMD (30_encoding.md R81, R87). -/
  | resizeNn
  /-- RESIZE.BL: the word 0x0000_0002 written to CMD (30_encoding.md R81, R87). -/
  | resizeBl
  | regRdId
  | regWrId (d : Word)
  | regRdCmd
  /-- REG.WR CMD: any other word written to CMD (30_encoding.md R82). -/
  | regWrCmd (d : Word)
  | regRdStatus
  | regWrStatus (d : Word)
  | regRdIrqEn
  | regWrIrqEn (d : Word)
  | regRdSrcBase
  | regWrSrcBase (d : Word)
  | regRdSrcDim
  | regWrSrcDim (d : Word)
  | regRdSrcCh
  | regWrSrcCh (d : Word)
  | regRdDstBase
  | regWrDstBase (d : Word)
  | regRdDstDim
  | regWrDstDim (d : Word)
  | regRdCmdLatch
  | regWrCmdLatch (d : Word)
deriving DecidableEq, Repr

end Sys2Proof
end

