-- ==== Sys2Proof/WellFormed.lean ====
section
/-! DEFINITION. Which terms of `Instr` are instructions as the decoder writes them. -/

namespace Sys2Proof

/-- Every field has its exact width by its type. The one check: a CMD write of 0x0000_0001 or 0x0000_0002 is
written as RESIZE.NN or RESIZE.BL, the table's row for that word (30_encoding.md R81, R87; log entry 13). -/
def WellFormed : Instr → Bool
  | .regWrCmd d => d != 0x00000001#32 && d != 0x00000002#32
  | .resizeNn | .resizeBl => true
  | .regRdId | .regRdCmd | .regRdStatus | .regRdIrqEn | .regRdSrcBase => true
  | .regRdSrcDim | .regRdSrcCh | .regRdDstBase | .regRdDstDim | .regRdCmdLatch => true
  | .regWrId _ | .regWrStatus _ | .regWrIrqEn _ | .regWrSrcBase _ | .regWrSrcDim _ => true
  | .regWrSrcCh _ | .regWrDstBase _ | .regWrDstDim _ | .regWrCmdLatch _ => true

end Sys2Proof
end

