-- ==== Sys2Proof/Decode.lean ====
section
/-! DEFINITION. From an access to the register window to the instruction it stands for, and back (30_encoding.md).
The bits of an instruction are the access's direction, width, offset and data word: the block fetches nothing. -/

namespace Sys2Proof

open Machine

/-- What an access stands for. -/
inductive Decoded where
  /-- An instruction of the opcode table. -/
  | instr (i : Instr)
  /-- An aligned word access at a reserved offset, 0x028 to 0xFFC (10_state.md R37). -/
  | reservedOffset
  /-- Not an aligned word access (20_memory.md R64). -/
  | accessSize
deriving DecidableEq, Repr

/-- The CMDW rows: a word written to CMD (30_encoding.md R80 to R82). -/
def decodeCommand (w : Word) : Instr :=
  if w = 0x00000001#32 then .resizeNn
  else if w = 0x00000002#32 then .resizeBl
  else .regWrCmd w

/-- The MMIO rows of direction read (30_encoding.md R83). -/
def decodeRead : Reg → Instr
  | .id       => .regRdId
  | .cmd      => .regRdCmd
  | .status   => .regRdStatus
  | .irqEn    => .regRdIrqEn
  | .srcBase  => .regRdSrcBase
  | .srcDim   => .regRdSrcDim
  | .srcCh    => .regRdSrcCh
  | .dstBase  => .regRdDstBase
  | .dstDim   => .regRdDstDim
  | .cmdLatch => .regRdCmdLatch

/-- The MMIO rows of direction write (30_encoding.md R83). -/
def decodeWrite (r : Reg) (d : Word) : Instr :=
  match r with
  | .id       => .regWrId d
  | .cmd      => decodeCommand d
  | .status   => .regWrStatus d
  | .irqEn    => .regWrIrqEn d
  | .srcBase  => .regWrSrcBase d
  | .srcDim   => .regWrSrcDim d
  | .srcCh    => .regWrSrcCh d
  | .dstBase  => .regWrDstBase d
  | .dstDim   => .regWrDstDim d
  | .cmdLatch => .regWrCmdLatch d

/-- Decoding, total on every access. -/
def decode (a : Access) : Decoded :=
  if a.aligned then
    match regAt a.off with
    | none   => .reservedOffset
    | some r =>
      match a.dir with
      | .read  => .instr (decodeRead r)
      | .write => .instr (decodeWrite r a.data)
  else .accessSize

/-- The access that stands for an instruction (30_encoding.md R80, R81, R83, R87). -/
def encode : Instr → Access
  | .resizeNn        => writeOf .cmd 0x00000001#32
  | .resizeBl        => writeOf .cmd 0x00000002#32
  | .regRdId         => readOf .id
  | .regWrId d       => writeOf .id d
  | .regRdCmd        => readOf .cmd
  | .regWrCmd d      => writeOf .cmd d
  | .regRdStatus     => readOf .status
  | .regWrStatus d   => writeOf .status d
  | .regRdIrqEn      => readOf .irqEn
  | .regWrIrqEn d    => writeOf .irqEn d
  | .regRdSrcBase    => readOf .srcBase
  | .regWrSrcBase d  => writeOf .srcBase d
  | .regRdSrcDim     => readOf .srcDim
  | .regWrSrcDim d   => writeOf .srcDim d
  | .regRdSrcCh      => readOf .srcCh
  | .regWrSrcCh d    => writeOf .srcCh d
  | .regRdDstBase    => readOf .dstBase
  | .regWrDstBase d  => writeOf .dstBase d
  | .regRdDstDim     => readOf .dstDim
  | .regWrDstDim d   => writeOf .dstDim d
  | .regRdCmdLatch   => readOf .cmdLatch
  | .regWrCmdLatch d => writeOf .cmdLatch d

/-- The access that spec/opcode_table.json's bits of a row stand for (log entry 12). The CMDW rows give 32 bits:
the word written to CMD. The MMIO rows give 12 bits, the offset: the table's bits do not hold the direction, which
the bus carries beside them, so such a word is taken as a read. -/
def tableAccess (nbits w : Nat) : Access :=
  if nbits ≤ 16 then
    { dir := .read, size := .word, off := BitVec.ofNat 12 w, data := 0#32 }
  else writeOf .cmd (BitVec.ofNat 32 w)

/-- The instruction the decoder reads from a row's bits, numbered as spec/opcode_table.json numbers them. -/
def decodeTableWord (nbits w : Nat) : Option Instr :=
  match decode (tableAccess nbits w) with
  | .instr i        => some i
  | .reservedOffset => none
  | .accessSize     => none

end Sys2Proof
end

