-- ==== Sys2Proof/Machine/Command.lean ====
section
/-! DEFINITION. Issuing a command: validation, acceptance, drop (40_resize.md R100, R101; 60_exceptions.md R161), and
the meanings of RESIZE.NN and RESIZE.BL. The work the engine then does is in Resample.lean and Engine.lean. -/

namespace Sys2Proof.Machine

/-- The mode a command word asks for; none for an illegal word (30_encoding.md R81, R82). -/
def modeOf (v : Word) : Option Mode :=
  if v = 0x00000001#32 then some .nearest
  else if v = 0x00000002#32 then some .bilinear
  else none

/-- The checks of 60_exceptions.md R161 on a command's operands, in its order: the first that fails, if one does. -/
def checkOperands (limit : Nat) (L : Latch) : Option ErrCause :=
  if L.sw = 0#16 ∨ L.sh = 0#16 then some .invalidSource
  else if ¬(L.ch = 1#3 ∨ L.ch = 3#3 ∨ L.ch = 4#3) then some .unsupportedFormat
  else if L.dw = 0#16 ∨ L.dh = 0#16 then some .invalidArgument
  else if L.src.stop > limit ∨ L.dst.stop > limit then some .outOfRange
  else if L.src.base < L.dst.stop ∧ L.dst.base < L.src.stop then some .overlap
  else none

/-- `Validate` (60_exceptions.md R161) on the command word and the configuration registers: the error, or the record
that acceptance loads into LATCH (40_resize.md R100). -/
def validate (v : Word) (s : State) : Except ErrCause Latch :=
  match modeOf v with
  | none    => .error .illegalCommand
  | some op =>
    match checkOperands (addrLimit s.platform) (operands op s) with
    | some e => .error e
    | none   => .ok (operands op s)

/-- A CMD write while BUSY = 0 (40_resize.md R100). -/
def accept (v : Word) (s : State) : State :=
  let s1 := (s.setCmdLatch v).setStatus (acceptFlags s.status)
  match validate v s with
  | .error e => raiseErr e s1
  | .ok L    => (s1.setLatch (some L)).setStatus { s1.status with busy := true }

/-- A CMD write while BUSY = 1 (40_resize.md R101). -/
def dropCommand (s : State) : State := s.setStatus { s.status with dropped := true }

/-- A register write of `v` to CMD (10_state.md R24, 41_register_access.md R141). -/
def cmdWrite (v : Word) (s : State) : State :=
  if s.status.busy then dropCommand s else accept v s

/-- RESIZE.NN (30_encoding.md R81, R87; 40_resize.md R100 to R102). -/
def execResizeNn (s : State) : Host.Outcome State Fault Refusal :=
  .next (respondAck (cmdWrite 0x00000001#32 s))

/-- RESIZE.BL (30_encoding.md R81, R87; 40_resize.md R100, R101, R103). -/
def execResizeBl (s : State) : Host.Outcome State Fault Refusal :=
  .next (respondAck (cmdWrite 0x00000002#32 s))

end Sys2Proof.Machine
end

