-- ==== Sys2Proof/Machine/RegisterAccess.lean ====
section
/-! DEFINITION. The meanings of REG.RD and REG.WR for each register (41_register_access.md R140, R141). No read has a
side effect on the block, and no register access stops. -/

namespace Sys2Proof.Machine

/-- REG.RD ID: the constant BLOCK_ID (10_state.md R23). -/
def execRegRdId (s : State) : Host.Outcome State Fault Refusal :=
  .next (respondData Config.blockId s)

/-- REG.WR ID: ignored (10_state.md R23). -/
def execRegWrId (_d : Word) (s : State) : Host.Outcome State Fault Refusal :=
  .next (respondAck s)

/-- REG.RD CMD: 0 (10_state.md R24). -/
def execRegRdCmd (s : State) : Host.Outcome State Fault Refusal :=
  .next (respondData 0#32 s)

/-- REG.WR CMD: a command (10_state.md R24). -/
def execRegWrCmd (d : Word) (s : State) : Host.Outcome State Fault Refusal :=
  .next (respondAck (cmdWrite d s))

/-- REG.RD STATUS (10_state.md R25 to R29). -/
def execRegRdStatus (s : State) : Host.Outcome State Fault Refusal :=
  .next (respondData (statusWord s.status) s)

/-- REG.WR STATUS: write-1-to-clear of DONE, ERR with ERR_CODE, and DROPPED (10_state.md R25 to R29). -/
def execRegWrStatus (d : Word) (s : State) : Host.Outcome State Fault Refusal :=
  .next (respondAck (s.setStatus (statusWrite d s.status)))

/-- REG.RD IRQ_EN (10_state.md R30). -/
def execRegRdIrqEn (s : State) : Host.Outcome State Fault Refusal :=
  .next (respondData (BitVec.setWidth 32 s.irqEn) s)

/-- REG.WR IRQ_EN (10_state.md R30). -/
def execRegWrIrqEn (d : Word) (s : State) : Host.Outcome State Fault Refusal :=
  .next (respondAck (s.setIrqEn (lowThree d)))

/-- REG.RD SRC_BASE (10_state.md R31). -/
def execRegRdSrcBase (s : State) : Host.Outcome State Fault Refusal :=
  .next (respondData s.srcBase s)

/-- REG.WR SRC_BASE (10_state.md R31). -/
def execRegWrSrcBase (d : Word) (s : State) : Host.Outcome State Fault Refusal :=
  .next (respondAck (s.setSrcBase (addrField s.platform.addrWidth d)))

/-- REG.RD SRC_DIM (10_state.md R32). -/
def execRegRdSrcDim (s : State) : Host.Outcome State Fault Refusal :=
  .next (respondData (dimWord s.srcW s.srcH) s)

/-- REG.WR SRC_DIM (10_state.md R32). -/
def execRegWrSrcDim (d : Word) (s : State) : Host.Outcome State Fault Refusal :=
  .next (respondAck (s.setSrcDim (lowHalf d) (highHalf d)))

/-- REG.RD SRC_CH (10_state.md R33). -/
def execRegRdSrcCh (s : State) : Host.Outcome State Fault Refusal :=
  .next (respondData (BitVec.setWidth 32 s.ch) s)

/-- REG.WR SRC_CH (10_state.md R33). -/
def execRegWrSrcCh (d : Word) (s : State) : Host.Outcome State Fault Refusal :=
  .next (respondAck (s.setCh (lowThree d)))

/-- REG.RD DST_BASE (10_state.md R34). -/
def execRegRdDstBase (s : State) : Host.Outcome State Fault Refusal :=
  .next (respondData s.dstBase s)

/-- REG.WR DST_BASE (10_state.md R34). -/
def execRegWrDstBase (d : Word) (s : State) : Host.Outcome State Fault Refusal :=
  .next (respondAck (s.setDstBase (addrField s.platform.addrWidth d)))

/-- REG.RD DST_DIM (10_state.md R35). -/
def execRegRdDstDim (s : State) : Host.Outcome State Fault Refusal :=
  .next (respondData (dimWord s.dstW s.dstH) s)

/-- REG.WR DST_DIM (10_state.md R35). -/
def execRegWrDstDim (d : Word) (s : State) : Host.Outcome State Fault Refusal :=
  .next (respondAck (s.setDstDim (lowHalf d) (highHalf d)))

/-- REG.RD CMD_LATCH (10_state.md R36). -/
def execRegRdCmdLatch (s : State) : Host.Outcome State Fault Refusal :=
  .next (respondData s.cmdLatch s)

/-- REG.WR CMD_LATCH: ignored (10_state.md R36). -/
def execRegWrCmdLatch (_d : Word) (s : State) : Host.Outcome State Fault Refusal :=
  .next (respondAck s)

/-- An aligned word access at a reserved offset: a read returns 0, a write is ignored (10_state.md R37). -/
def reservedAccess (d : Dir) (s : State) : State :=
  match d with
  | .read  => respondData 0#32 s
  | .write => respondAck s

end Sys2Proof.Machine
end

