-- ==== Sys2Proof/Machine/Dispatch.lean ====
section
/-! DEFINITION. One arm for each instruction, each one direct call of its meaning. -/

namespace Sys2Proof.Machine

def exec (i : Instr) (s : State) : Host.Outcome State Fault Refusal :=
  match i with
  | .resizeNn => Sys2Proof.Machine.execResizeNn s
  | .resizeBl => Sys2Proof.Machine.execResizeBl s
  | .regRdId => Sys2Proof.Machine.execRegRdId s
  | .regWrId d => Sys2Proof.Machine.execRegWrId d s
  | .regRdCmd => Sys2Proof.Machine.execRegRdCmd s
  | .regWrCmd d => Sys2Proof.Machine.execRegWrCmd d s
  | .regRdStatus => Sys2Proof.Machine.execRegRdStatus s
  | .regWrStatus d => Sys2Proof.Machine.execRegWrStatus d s
  | .regRdIrqEn => Sys2Proof.Machine.execRegRdIrqEn s
  | .regWrIrqEn d => Sys2Proof.Machine.execRegWrIrqEn d s
  | .regRdSrcBase => Sys2Proof.Machine.execRegRdSrcBase s
  | .regWrSrcBase d => Sys2Proof.Machine.execRegWrSrcBase d s
  | .regRdSrcDim => Sys2Proof.Machine.execRegRdSrcDim s
  | .regWrSrcDim d => Sys2Proof.Machine.execRegWrSrcDim d s
  | .regRdSrcCh => Sys2Proof.Machine.execRegRdSrcCh s
  | .regWrSrcCh d => Sys2Proof.Machine.execRegWrSrcCh d s
  | .regRdDstBase => Sys2Proof.Machine.execRegRdDstBase s
  | .regWrDstBase d => Sys2Proof.Machine.execRegWrDstBase d s
  | .regRdDstDim => Sys2Proof.Machine.execRegRdDstDim s
  | .regWrDstDim d => Sys2Proof.Machine.execRegWrDstDim d s
  | .regRdCmdLatch => Sys2Proof.Machine.execRegRdCmdLatch s
  | .regWrCmdLatch d => Sys2Proof.Machine.execRegWrCmdLatch d s

end Sys2Proof.Machine
end

