-- ==== Sys2Proof/Machine/HostAgent.lean ====
section
/-! DEFINITION. The host agent's step: one statement of its program (30_encoding.md R86), with the hazard rules its
accesses must respect (70_reset_and_hazards.md R200). -/

namespace Sys2Proof.Machine

/-- The host moves to its next statement. -/
def advance (s : State) : State := s.setHost { s.host with pc := s.host.pc + 1 }

/-- A temporary takes a value. -/
def setTemp (t : Temp) (w : Word) (s : State) : State :=
  s.setHost { s.host with temps := s.host.temps.set t.val w }

/-- A register read's value goes into the named temporary (30_encoding.md R86). -/
def loadTemp (t : Option Temp) (s : State) : State :=
  match t, s.resp with
  | some t, .data w => setTemp t w s
  | _, _            => s

/-- An access to the register window and the host's part of it. An access that is not an aligned word gets a bus
error, changes nothing else in the block, and records REG_ACCESS_SIZE (20_memory.md R64). DESIGN CHOICE (log entry
31): no access here is a HAZARD, also where a running command's region covers the window. -/
def hostBus (t : Option Temp) (a : Access) (s : State) : Host.Outcome State Fault Refusal :=
  match decode a with
  | .instr i        => onNext (exec i s) (fun s' => advance (loadTemp t s'))
  | .reservedOffset => .next (advance (loadTemp t (reservedAccess a.dir s)))
  | .accessSize     => .next (advance (recordFault .regAccessSize (respondError s)))

/-- Whether a host access to sample memory breaks the region hazard rule (70_reset_and_hazards.md R200). -/
def breaksRegionRule (s : State) (d : Dir) (a : Nat) : Bool :=
  match s.latch with
  | none   => false
  | some L => L.dst.contains a || (d == .write && L.src.contains a)

/-- The model fault of a host access of one sample byte, if it raises one (60_exceptions.md R175; log entries 19
and 20). DESIGN CHOICE (log entry 29): `memAdmits` plays no part, so a host access completes also where the platform
refuses the engine's. DESIGN CHOICE (log entries 31 and 32): the conditions are tested in this order and the first that
holds is the one fault recorded, so an access on the window is REG_ACCESS_SIZE and no HAZARD. -/
def hostAccessFault (s : State) (d : Dir) (a : Nat) : Option Fault :=
  if addrLimit s.platform ≤ a then some .noSuchAddress
  else if inWindow s.platform a then some .regAccessSize
  else if breaksRegionRule s d a then some .hazard
  else none

/-- `WRMEM`: the host writes bytes to sample memory at rising addresses, up to the first that raises a model fault
(30_encoding.md R86; log entry 21). -/
def hostWrite (a : Nat) (bs : List Byte) (s : State) : State :=
  match bs with
  | [] => s
  | v :: r =>
    match hostAccessFault s .write a with
    | some f => recordFault f s
    | none   => hostWrite (a + 1) r (s.setMem (writeByte s.mem a v))

/-- `RDMEM`: the host reads one sample byte into a temporary; an undefined byte records UNINIT_READ
(20_memory.md R76, 60_exceptions.md R175). DESIGN CHOICE (log entry 32): an access that raises another fault records
that one alone. -/
def hostRead (t : Temp) (a : Nat) (s : State) : State :=
  match hostAccessFault s .read a with
  | some f => recordFault f s
  | none   =>
    match readByte s.mem a with
    | some v => setTemp t (BitVec.setWidth 32 v) s
    | none   => recordFault .uninitRead s

/-- Where a label stands in a program. -/
def labelAt (l : Label) (prog : List Stmt) : Option Nat :=
  prog.findIdx? (fun x => x == .label l)

/-- A branch to a label (log entry 18). -/
def jump (l : Label) (s : State) : Host.Outcome State Fault Refusal :=
  match labelAt l s.host.prog with
  | some i => .next (s.setHost { s.host with pc := i })
  | none   => .refused (.undefinedLabel l)

/-- One statement of the host notation (30_encoding.md R86). A label only names a place; FENCE has no further effect,
because host writes are complete when performed (70_reset_and_hazards.md R203; log entry 15). -/
def hostStmt (x : Stmt) (s : State) : Host.Outcome State Fault Refusal :=
  match x with
  | .bus t a      => hostBus t a s
  | .wrmem a bs   => .next (advance (hostWrite a.toNat bs s))
  | .rdmem t a    => .next (advance (hostRead t a.toNat s))
  | .bset t bit l => if (s.host.temps.get t).getLsbD bit then jump l s else .next (advance s)
  | .bclr t bit l => if (s.host.temps.get t).getLsbD bit then .next (advance s) else jump l s
  | .fence        => .next (advance s)
  | .halt         => .next (s.setHost { s.host with halted := true })
  | .label _      => .next (advance s)

/-- The host's next statement; none once it executed HALT or has none left (70_reset_and_hazards.md R207). -/
def nextStmt (s : State) : Option Stmt :=
  if s.host.halted then none else s.host.prog[s.host.pc]?

end Sys2Proof.Machine
end

