-- ==== Sys2Proof/Machine/Reset.lean ====
section
/-! DEFINITION. The block's reset input, as one step (70_reset_and_hazards.md R190 to R193). -/

namespace Sys2Proof.Machine

/-- Sample memory after a reset: unchanged, but a running command's destination is undefined
(70_reset_and_hazards.md R192, R193). -/
def memAfterReset (s : State) : Mem :=
  match s.latch with
  | some L => undefRange s.mem L.dst.base L.dst.size
  | none   => s.mem

/-- A reset of the block (70_reset_and_hazards.md R190): every piece of block state to its reset value. The host, the
schedule, the platform and the recorded faults are no state of the block (log entry 22). -/
def blockReset (s : State) : State :=
  { State.reset with
    mem := memAfterReset s
    faults := s.faults
    resp := s.resp
    host := s.host
    sched := s.sched
    platform := s.platform
    ctr := s.ctr }

end Sys2Proof.Machine
end

