-- ==== Sys2Proof/Machine/Agents.lean ====
section
/-! DEFINITION. Which agent moves next (60_exceptions.md R169, 70_reset_and_hazards.md R206; log entry 2). -/

namespace Sys2Proof.Machine

/-- The agent of a step. -/
inductive Move where
  | reset
  | engine
  | host (x : Stmt)
  /-- No agent is enabled: the block keeps its state (60_exceptions.md R174). -/
  | idle
deriving DecidableEq, Repr

/-- The host if it has a statement, else the engine if it is enabled. -/
def hostFirst (s : State) : Move :=
  match nextStmt s with
  | some x => .host x
  | none   => if s.status.busy then .engine else .idle

/-- The engine if it is enabled (BUSY = 1), else the host if it has a statement. -/
def engineFirst (s : State) : Move :=
  if s.status.busy then .engine
  else
    match nextStmt s with
    | some x => .host x
    | none   => .idle

/-- The agent that moves: the one the schedule names, where it is enabled. Once the schedule is used up the engine
moves whenever it is enabled, so an accepted command always completes (weak fairness, 70_reset_and_hazards.md R206). -/
def nextMove (s : State) : Move :=
  match s.sched with
  | .reset :: _  => .reset
  | .engine :: _ => engineFirst s
  | .host :: _   => hostFirst s
  | []           => engineFirst s

/-- The schedule without the entry this step uses. -/
def popTurn (s : State) : State := s.setSched s.sched.tail

/-- A move, made. -/
def perform (m : Move) (s : State) : Host.Outcome State Fault Refusal :=
  match m with
  | .reset  => .next (blockReset s)
  | .engine => .next (engineStep s)
  | .host x => hostStmt x s
  | .idle   => .next s

/-- A host program loaded from outside, its first statement next, and the host the next to move (log entry 1). -/
def loadProgram (prog : List Stmt) (s : State) : State :=
  (s.setHost { s.host with prog := prog, pc := 0, halted := false }).setSched (.host :: s.sched)

end Sys2Proof.Machine
end

