-- ==== Sys2Proof/Machine/Step.lean ====
section
/-! DEFINITION. One step of the machine, and the placing of one instruction where the next step takes it. -/

namespace Sys2Proof.Machine

/-- One step. A recorded model fault ends the run (60_exceptions.md R175; log entry 7); else one agent moves. -/
def step (s : State) : Host.Outcome State Fault Refusal :=
  match s.faults with
  | f :: _ => .fault f
  | []     => perform (nextMove s) (popTurn s)

/-- The state with the instruction of a table row as the host's next statement (log entries 1 and 12). -/
def State.withFetchWord (s : State) (nbits w : Nat) : State :=
  loadProgram [.bus none (tableAccess nbits w)] s

end Sys2Proof.Machine
end

