-- ==== Sys2Proof/Safety.lean ====
section
/-! DEFINITION. What the claims speak of: the invariant of the machine, the premises of a command's run, and the end
of a run. -/

namespace Sys2Proof.Machine

/-- What the checks of 60_exceptions.md R161 guarantee of an accepted command (40_resize.md R102). -/
abbrev Latch.Valid (limit : Nat) (L : Latch) : Prop :=
  (L.sw ≠ 0#16 ∧ L.sh ≠ 0#16 ∧ L.dw ≠ 0#16 ∧ L.dh ≠ 0#16)
    ∧ (L.ch = 1#3 ∨ L.ch = 3#3 ∨ L.ch = 4#3)
    ∧ L.src.stop ≤ limit ∧ L.dst.stop ≤ limit
    ∧ (L.src.stop ≤ L.dst.base ∨ L.dst.stop ≤ L.src.base)

/-- STATUS is one the rules can make: DONE and ERR are never both 1 and are 0 while BUSY = 1 (40_resize.md R100, R104,
60_exceptions.md R166); ERR = 0 exactly when ERR_CODE = 0 (10_state.md R27); ERR_CODE is no reserved code
(60_exceptions.md R160). -/
abbrev Status.Legal (st : Status) : Prop :=
  (st.busy = true → st.done = false ∧ st.err = false)
    ∧ (st.done = true → st.err = false)
    ∧ (st.err = false ↔ st.errCode = 0#4)
    ∧ st.errCode.toNat ≤ 7

/-- Sample memory is in its canonical form and lies in the address space (20_memory.md R60). -/
abbrev Mem.InSpace (limit : Nat) (m : Mem) : Prop := m.wf ∧ ∀ c ∈ m, c.1 < limit

/-- The invariant of the machine: 10_state.md R44 `latch.isSome = busy`, a legal STATUS, only validated records in
LATCH, canonical memory, and no base-address bit from ADDR_WIDTH up (10_state.md R31, R34). -/
structure Inv (s : State) : Prop where
  latch_busy  : s.latch.isSome = s.status.busy
  status      : s.status.Legal
  latch_valid : ∀ L, s.latch = some L → L.Valid (addrLimit s.platform)
  mem         : s.mem.InSpace (addrLimit s.platform)
  src_base    : s.srcBase.toNat < addrLimit s.platform
  dst_base    : s.dstBase.toNat < addrLimit s.platform

/-- Every byte of the source region is defined: the host wrote it (70_reset_and_hazards.md R194 step 1). -/
abbrev SourceDefined (s : State) (L : Latch) : Prop :=
  ∀ a, L.src.base ≤ a → a < L.src.stop → (readByte s.mem a).isSome = true

/-- The platform completes every access the command may make (20_memory.md R66, R76). -/
abbrev RegionsAdmitted (p : Platform) (L : Latch) : Prop :=
  (∀ a, L.src.base ≤ a → a < L.src.stop → memAdmits p a .read = true)
    ∧ ∀ a, L.dst.base ≤ a → a < L.dst.stop → memAdmits p a .write = true

/-- The configuration registers hold a pair of buffers that passes every check of 60_exceptions.md R161, written over
naturals as that rule writes it. -/
abbrev ValidSetup (s : State) : Prop :=
  0 < s.srcW.toNat ∧ 0 < s.srcH.toNat ∧ 0 < s.dstW.toNat ∧ 0 < s.dstH.toNat
    ∧ (s.ch.toNat = 1 ∨ s.ch.toNat = 3 ∨ s.ch.toNat = 4)
    ∧ s.srcBase.toNat + s.srcW.toNat * s.srcH.toNat * s.ch.toNat ≤ 2 ^ s.platform.addrWidth
    ∧ s.dstBase.toNat + s.dstW.toNat * s.dstH.toNat * s.ch.toNat ≤ 2 ^ s.platform.addrWidth
    ∧ (s.dstBase.toNat + s.dstW.toNat * s.dstH.toNat * s.ch.toNat ≤ s.srcBase.toNat
        ∨ s.srcBase.toNat + s.srcW.toNat * s.srcH.toNat * s.ch.toNat ≤ s.dstBase.toNat)

/-- A run with no model fault so far: the premise of every claim (93_implementation_defined.md P6). -/
abbrev Safe (s : State) : Prop := s.faults = []

/-- The end of a run (70_reset_and_hazards.md R207): HALT executed, BUSY = 0, no model fault. -/
abbrev RunOver (s : State) : Prop := s.host.halted = true ∧ s.status.busy = false ∧ Safe s

end Sys2Proof.Machine
end

