-- ==== Sys2Proof/Certificates/Slice0/Obligations.lean ====
section
/-! DEFINITION. The statements for the provers. Each docstring names the rule of spec/ it formalises. -/

open Sys2Proof Sys2Proof.Machine

/-! Encoding. -/

/-- 30_encoding.md R80, R81, R83: the decoder reads back every instruction from its encoding, with every operand. -/
def Obligations.DecodeReadsBackEveryEncoding : Prop :=
  ∀ i : Instr, WellFormed i = true → decode (encode i) = .instr i

/-- 30_encoding.md R83: an access the decoder takes is the encoding of the instruction it gives (a read's data lines
carry nothing), so no bit of an access is dropped. -/
def Obligations.DecodedAccessIsTheEncoding : Prop :=
  ∀ (a : Access) (i : Instr), decode a = .instr i →
    WellFormed i = true
      ∧ (a.dir = .write → encode i = a)
      ∧ (a.dir = .read → encode i = { a with data := 0#32 })

/-- 30_encoding.md R88, the worked encodings, with the offsets and words written out from the rule. -/
def Obligations.WorkedEncodings : Prop :=
  stmtResizeBl = .bus none ⟨.write, .word, 0x004#12, 0x00000002#32⟩
    ∧ setSrcStmts 0x1000#32 2#16 1#16 1#32 =
        [ .bus none ⟨.write, .word, 0x010#12, 0x00001000#32⟩,
          .bus none ⟨.write, .word, 0x014#12, 0x00010002#32⟩,
          .bus none ⟨.write, .word, 0x018#12, 0x00000001#32⟩ ]
    ∧ setDstStmts 0x2000#32 3#16 1#16 =
        [ .bus none ⟨.write, .word, 0x01C#12, 0x00002000#32⟩,
          .bus none ⟨.write, .word, 0x020#12, 0x00010003#32⟩ ]
    ∧ decode ⟨.write, .word, 0x004#12, 0x00000002#32⟩ = .instr .resizeBl
    ∧ decode ⟨.write, .word, 0x014#12, 0x00010002#32⟩ = .instr (.regWrSrcDim 0x00010002#32)
    ∧ modeOf 0x00000102#32 = none
    ∧ modeOf 0x00000003#32 = none

/-- 30_encoding.md R87: the expansions of the six pseudo-instructions, and RESIZE.NN and RESIZE.BL are the CMD writes
of 1 and 2 in what they do. -/
def Obligations.PseudoInstructionsExpand : Prop :=
  stmtResizeNn = wr32 .cmd 0x00000001#32
    ∧ stmtResizeBl = wr32 .cmd 0x00000002#32
    ∧ (∀ (base c : Word) (w h : BitVec 16), setSrcStmts base w h c =
        [ wr32 .srcBase base,
          wr32 .srcDim ((BitVec.setWidth 32 h <<< 16) ||| BitVec.setWidth 32 w),
          wr32 .srcCh c ])
    ∧ (∀ (base : Word) (w h : BitVec 16), setDstStmts base w h =
        [ wr32 .dstBase base,
          wr32 .dstDim ((BitVec.setWidth 32 h <<< 16) ||| BitVec.setWidth 32 w) ])
    ∧ (∀ (t : Temp) (l : Label), waitStmts t l = [.label l, rd32 t .status, .bset t 0 l])
    ∧ stmtClrst = wr32 .status 0x0000000E#32
    ∧ ∀ s : State, exec .resizeNn s = exec (.regWrCmd 0x00000001#32) s
        ∧ exec .resizeBl s = exec (.regWrCmd 0x00000002#32) s

/-- 20_memory.md R62: the byte at `REG_BASE + offset + k` is bits `[8k+7 : 8k]` of the register. -/
def Obligations.RegisterBytesAreLittleEndian : Prop :=
  ∀ w : Word,
    (∀ (k : Fin 4) (j : Nat), j < 8 → (regByte w k).getLsbD j = w.getLsbD (8 * k.val + j))
      ∧ w.toNat = (regByte w 0).toNat + 256 * (regByte w 1).toNat
          + 65536 * (regByte w 2).toNat + 16777216 * (regByte w 3).toNat

/-! The step around exec. -/

/-- When the host is next to move and its statement is an access that decodes to `i`, the step is exec of `i`, with
what stands around it: the schedule loses its first entry, a read's value goes into the named temporary, and the host
moves to its next statement. -/
def Obligations.StepRunsTheDecodedInstruction : Prop :=
  ∀ (s : State) (t : Option Temp) (a : Access) (i : Instr),
    s.faults = [] → nextMove s = .host (.bus t a) → decode a = .instr i →
      step s = onNext (exec i (popTurn s)) (fun u => advance (loadTemp t u))

/-- 60_exceptions.md R175: once recorded, a fault is never cleared, by whichever agent moves, whatever is recorded
before; and a run with one goes no further (the stop is the model's reading, log entry 7). -/
def Obligations.RecordedFaultsAreNeverCleared : Prop :=
  (∀ (m : Move) (s t : State), perform m s = .next t → ∃ new : List Fault, t.faults = new ++ s.faults)
    ∧ (∀ s t : State, step s = .next t → ∃ new : List Fault, t.faults = new ++ s.faults)
    ∧ ∀ (s : State) (f : Fault) (r : List Fault), s.faults = f :: r → step s = .fault f

/-- 20_memory.md R64: an access that is not an aligned word gets a bus error, changes no state of the block, and
records REG_ACCESS_SIZE; an aligned word access never does. The model's choices: a doubleword access counts too (log entry 25), and the host moves on with its
temporaries as they were (log entry 7). -/
def Obligations.NarrowOrMisalignedAccessIsABusError : Prop :=
  (∀ (s : State) (t : Option Temp) (a : Access),
    s.faults = [] → nextMove s = .host (.bus t a) → (a.size ≠ .word ∨ a.off.toNat % 4 ≠ 0) →
      step s = .next { s with
        resp := .error
        faults := [.regAccessSize]
        sched := s.sched.tail
        host := { s.host with pc := s.host.pc + 1 } })
    ∧ ∀ a : Access, a.size = .word → a.off.toNat % 4 = 0 → decode a ≠ .accessSize

/-- 10_state.md R37: the reserved offsets 0x028 to 0xFFC read 0 and ignore writes; a read that names no temporary
leaves the temporaries as they were. -/
def Obligations.ReservedOffsetsReadZero : Prop :=
  ∀ (s : State) (t : Option Temp) (a : Access),
    s.faults = [] → nextMove s = .host (.bus t a) →
    a.size = .word → a.off.toNat % 4 = 0 → 0x028 ≤ a.off.toNat →
      (a.dir = .read → step s = .next { s with
        resp := .data 0#32
        sched := s.sched.tail
        host := { s.host with
          pc := s.host.pc + 1
          temps := match t with
            | some n => s.host.temps.set n.val 0#32
            | none   => s.host.temps } })
      ∧ (a.dir = .write → step s = .next { s with
        resp := .ack
        sched := s.sched.tail
        host := { s.host with pc := s.host.pc + 1 } })

/-- 30_encoding.md R86: what the statements that touch neither the block nor sample memory do. A branch not taken
moves on, a taken one goes to its label; HALT ends the host program, and a label only moves on. The model's choices:
FENCE only moves on (log entry 15); of two definitions of a label the first counts, and a taken branch to a label the
program does not define is refused (log entry 18). -/
def Obligations.HostControlStatements : Prop :=
  ∀ (s : State) (t : Temp) (b : Fin 32) (l : Label), s.faults = [] →
    let goTo (i : Nat) : State := { s with sched := s.sched.tail, host := { s.host with pc := i } }
    let branchIf (v : Bool) : Prop :=
      (v = true ∧ nextMove s = .host (.bset t b l)) ∨ (v = false ∧ nextMove s = .host (.bclr t b l))
    (∀ v, branchIf v → (s.host.temps.get t).getLsbD b ≠ v → step s = .next (goTo (s.host.pc + 1)))
      ∧ (∀ v i, branchIf v → (s.host.temps.get t).getLsbD b = v →
          s.host.prog[i]? = some (.label l) → (∀ j, j < i → s.host.prog[j]? ≠ some (.label l)) →
            step s = .next (goTo i))
      ∧ (∀ v, branchIf v → (s.host.temps.get t).getLsbD b = v → Stmt.label l ∉ s.host.prog →
          step s = .refused (.undefinedLabel l))
      ∧ ((nextMove s = .host .fence ∨ nextMove s = .host (.label l)) → step s = .next (goTo (s.host.pc + 1)))
      ∧ (nextMove s = .host .halt → step s = .next { s with
        sched := s.sched.tail
        host := { s.host with halted := true } })

/-! Register reads. -/

/-- 10_state.md R23: ID reads BLOCK_ID in every state, so also after a reset, and ignores writes. -/
def Obligations.IdIsAConstant : Prop :=
  ∀ (s : State) (d : Word),
    exec .regRdId s = .next { s with resp := .data 0x42520001#32 }
      ∧ exec (.regWrId d) s = .next { s with resp := .ack }
      ∧ (0x42520001#32).extractLsb' 16 16 = 0x4252#16
      ∧ (0x42520001#32).extractLsb' 0 16 = 0x0001#16

/-- 41_register_access.md R140: every register read answers, with the value the rule gives, and changes nothing of
the machine but the answer on the bus. The words are written by the weight of their bits. -/
def Obligations.RegisterReadsReturnTheirValue : Prop :=
  ∀ s : State,
    exec .regRdId s = .next { s with resp := .data 0x42520001#32 }
      ∧ exec .regRdCmd s = .next { s with resp := .data 0#32 }
      ∧ exec .regRdStatus s = .next { s with resp := .data (BitVec.ofNat 32
          (s.status.busy.toNat + 2 * s.status.done.toNat + 4 * s.status.err.toNat
            + 8 * s.status.dropped.toNat + 256 * s.status.errCode.toNat)) }
      ∧ exec .regRdIrqEn s = .next { s with resp := .data (BitVec.ofNat 32 s.irqEn.toNat) }
      ∧ exec .regRdSrcBase s = .next { s with resp := .data s.srcBase }
      ∧ exec .regRdSrcDim s = .next { s with
          resp := .data (BitVec.ofNat 32 (s.srcW.toNat + 65536 * s.srcH.toNat)) }
      ∧ exec .regRdSrcCh s = .next { s with resp := .data (BitVec.ofNat 32 s.ch.toNat) }
      ∧ exec .regRdDstBase s = .next { s with resp := .data s.dstBase }
      ∧ exec .regRdDstDim s = .next { s with
          resp := .data (BitVec.ofNat 32 (s.dstW.toNat + 65536 * s.dstH.toNat)) }
      ∧ exec .regRdCmdLatch s = .next { s with resp := .data s.cmdLatch }

/-- 41_register_access.md R143: after a step that is no host write to the window, no engine completion and no reset,
every register reads as before and IRQ is as before. -/
def Obligations.RegisterValuesAreStable : Prop :=
  ∀ s t : State, step s = .next t →
    nextMove s ≠ .engine → nextMove s ≠ .reset →
    (∀ (x : Option Temp) (a : Access), nextMove s = .host (.bus x a) → a.dir = .read) →
      (∀ (r : Reg) (w : Word), exec (decodeRead r) s = .next (s.setResp (.data w)) →
        exec (decodeRead r) t = .next (t.setResp (.data w)))
      ∧ irq t = irq s

/-! Register writes. -/

/-- 41_register_access.md R141: a write to IRQ_EN, SRC_BASE, SRC_DIM, SRC_CH, DST_BASE or DST_DIM stores its fields,
each truncated to its width, and changes nothing else; a write to ID or CMD_LATCH is ignored. -/
def Obligations.ConfigurationWritesStoreTheirFields : Prop :=
  ∀ (s : State) (d : Word),
    exec (.regWrId d) s = .next { s with resp := .ack }
      ∧ exec (.regWrCmdLatch d) s = .next { s with resp := .ack }
      ∧ exec (.regWrIrqEn d) s = .next { s with irqEn := BitVec.ofNat 3 d.toNat, resp := .ack }
      ∧ exec (.regWrSrcBase d) s = .next { s with
          srcBase := BitVec.ofNat 32 (d.toNat % 2 ^ s.platform.addrWidth), resp := .ack }
      ∧ exec (.regWrSrcDim d) s = .next { s with
          srcW := BitVec.ofNat 16 d.toNat, srcH := BitVec.ofNat 16 (d.toNat / 65536), resp := .ack }
      ∧ exec (.regWrSrcCh d) s = .next { s with ch := BitVec.ofNat 3 d.toNat, resp := .ack }
      ∧ exec (.regWrDstBase d) s = .next { s with
          dstBase := BitVec.ofNat 32 (d.toNat % 2 ^ s.platform.addrWidth), resp := .ack }
      ∧ exec (.regWrDstDim d) s = .next { s with
          dstW := BitVec.ofNat 16 d.toNat, dstH := BitVec.ofNat 16 (d.toNat / 65536), resp := .ack }

/-- 10_state.md R25 to R29: a write to STATUS clears DONE by bit 1, ERR with ERR_CODE by bit 2 and DROPPED by bit 3,
leaves each as it was where its bit is 0, and never changes BUSY. -/
def Obligations.StatusWritesClearByOnes : Prop :=
  ∀ (s : State) (d : Word),
    exec (.regWrStatus d) s = .next { s with
      resp := .ack
      status :=
        { busy := s.status.busy
          done := s.status.done && !d.getLsbD 1
          err := s.status.err && !d.getLsbD 2
          dropped := s.status.dropped && !d.getLsbD 3
          errCode := if d.getLsbD 2 then 0#4 else s.status.errCode } }

/-- 10_state.md R36: CMD_LATCH takes the word of every command that is not dropped, accepted or rejected; a dropped
write and a write to CMD_LATCH leave it; its reset value is 0. -/
def Obligations.CmdLatchKeepsTheLastCommand : Prop :=
  (∀ (s : State) (v : Word), ∃ t, exec (.regWrCmd v) s = .next t
      ∧ t.cmdLatch = if s.status.busy then s.cmdLatch else v)
    ∧ (∀ s : State, ∃ t, exec .resizeNn s = .next t
      ∧ t.cmdLatch = if s.status.busy then s.cmdLatch else 0x00000001#32)
    ∧ (∀ s : State, ∃ t, exec .resizeBl s = .next t
      ∧ t.cmdLatch = if s.status.busy then s.cmdLatch else 0x00000002#32)
    ∧ (∀ (s : State) (d : Word), exec (.regWrCmdLatch d) s = .next { s with resp := .ack })
    ∧ (∀ s : State, exec .regRdCmdLatch s = .next { s with resp := .data s.cmdLatch })
    ∧ State.reset.cmdLatch = 0#32
    ∧ ∀ s : State, (blockReset s).cmdLatch = 0#32

/-- 41_register_access.md R141, corner cases: while BUSY = 1 a STATUS write of 0x0000_000E clears DROPPED alone,
because DONE and ERR are already 0. -/
def Obligations.StatusWriteWhileBusyClearsOnlyDropped : Prop :=
  ∀ s : State, Inv s → s.status.busy = true →
    exec (.regWrStatus 0x0000000E#32) s = .next { s with
      resp := .ack
      status := { s.status with dropped := false } }

/-! Issuing a command. -/

/-- 40_resize.md R100: with BUSY = 0 and registers that pass every check, RESIZE.NN and RESIZE.BL, and the CMD writes
of their words, are accepted: the operands are latched, BUSY rises, DONE, ERR and ERR_CODE are cleared, the word is
recorded, and nothing else changes. -/
def Obligations.ValidCommandIsAccepted : Prop :=
  ∀ s : State, s.status.busy = false → ValidSetup s →
    let accepted (v : Word) (op : Mode) : State := { s with
      resp := .ack
      cmdLatch := v
      status := { busy := true, done := false, err := false, dropped := s.status.dropped, errCode := 0#4 }
      latch := some { op := op, sb := s.srcBase, sw := s.srcW, sh := s.srcH, ch := s.ch,
                      db := s.dstBase, dw := s.dstW, dh := s.dstH } }
    exec .resizeNn s = .next (accepted 0x00000001#32 .nearest)
      ∧ exec (.regWrCmd 0x00000001#32) s = .next (accepted 0x00000001#32 .nearest)
      ∧ exec .resizeBl s = .next (accepted 0x00000002#32 .bilinear)
      ∧ exec (.regWrCmd 0x00000002#32) s = .next (accepted 0x00000002#32 .bilinear)

/-- 30_encoding.md R82: every word but 1 and 2 is illegal. With BUSY = 0 it is rejected with ILLEGAL_COMMAND and
recorded in CMD_LATCH; with BUSY = 1 it is dropped. -/
def Obligations.IllegalWordIsRejected : Prop :=
  ∀ (s : State) (v : Word), v ≠ 0x00000001#32 → v ≠ 0x00000002#32 →
    (s.status.busy = false → exec (.regWrCmd v) s = .next { s with
      resp := .ack
      cmdLatch := v
      status := { busy := false, done := false, err := true, dropped := s.status.dropped, errCode := 0x4#4 } })
    ∧ (s.status.busy = true → exec (.regWrCmd v) s = .next { s with
      resp := .ack
      status := { s.status with dropped := true } })

/-- 40_resize.md R101: a CMD write of any word while BUSY = 1 sets DROPPED and changes nothing else. -/
def Obligations.CommandWhileBusyIsDropped : Prop :=
  ∀ (s : State) (v : Word), s.status.busy = true →
    let dropped : State := { s with resp := .ack, status := { s.status with dropped := true } }
    exec (.regWrCmd v) s = .next dropped
      ∧ exec .resizeNn s = .next dropped
      ∧ exec .resizeBl s = .next dropped

/-- 60_exceptions.md R161: the error of a command is the first check that fails, in the rule's order, over exact
naturals; with no error the command is accepted. -/
def Obligations.ErrorIsTheFirstFailingCheck : Prop :=
  ∀ (s : State) (v : Word), s.status.busy = false →
    let sb := s.srcBase.toNat
    let db := s.dstBase.toNat
    let ssize := s.srcW.toNat * s.srcH.toNat * s.ch.toNat
    let dsize := s.dstW.toNat * s.dstH.toNat * s.ch.toNat
    let code : Nat :=
      if v.toNat ≠ 1 ∧ v.toNat ≠ 2 then 0x4
      else if s.srcW.toNat = 0 ∨ s.srcH.toNat = 0 then 0x6
      else if ¬(s.ch.toNat = 1 ∨ s.ch.toNat = 3 ∨ s.ch.toNat = 4) then 0x2
      else if s.dstW.toNat = 0 ∨ s.dstH.toNat = 0 then 0x1
      else if sb + ssize > 2 ^ s.platform.addrWidth ∨ db + dsize > 2 ^ s.platform.addrWidth then 0x3
      else if sb < db + dsize ∧ db < sb + ssize then 0x5
      else 0x0
    ∃ t, exec (.regWrCmd v) s = .next t
      ∧ t.status.errCode.toNat = code
      ∧ (t.status.err = true ↔ code ≠ 0)
      ∧ (t.status.busy = true ↔ code = 0)
      ∧ t.status.done = false
      ∧ t.status.dropped = s.status.dropped

/-- 60_exceptions.md R164: a rejection writes STATUS and CMD_LATCH only; BUSY stays 0 and LATCH is as it was. -/
def Obligations.RejectionWritesOnlyStatusAndCmdLatch : Prop :=
  ∀ (s t : State) (v : Word), s.status.busy = false → exec (.regWrCmd v) s = .next t → t.status.err = true →
    t.status.busy = false
      ∧ t = { s with
          resp := .ack
          cmdLatch := v
          status := { busy := false, done := false, err := true, dropped := s.status.dropped,
                      errCode := t.status.errCode } }

/-- 70_reset_and_hazards.md R195: straight after a reset a legal command word is rejected with INVALID_SOURCE and an
illegal one with ILLEGAL_COMMAND. -/
def Obligations.CommandStraightAfterReset : Prop :=
  ∀ s : State, s = State.reset ∨ (∃ u, s = blockReset u) →
    (∃ t, exec .resizeNn s = .next t ∧ t.status.err = true ∧ t.status.errCode = 0x6#4 ∧ s.srcW = 0#16)
      ∧ (∃ t, exec .resizeBl s = .next t ∧ t.status.err = true ∧ t.status.errCode = 0x6#4)
      ∧ ∀ v : Word, v ≠ 0x00000001#32 → v ≠ 0x00000002#32 →
          ∃ t, exec (.regWrCmd v) s = .next t ∧ t.status.err = true ∧ t.status.errCode = 0x4#4

/-! Frames of the instructions. -/

/-- What no instruction of the table changes: every byte of sample memory, the fault list, the host, the schedule, the
platform and the count of ended commands; and each answers a next state. -/
def Obligations.NoInstructionTouchesMemory : Prop :=
  ∀ (i : Instr) (s : State), ∃ t, exec i s = .next t
    ∧ (∀ a : Nat, readByte t.mem a = readByte s.mem a)
    ∧ t.faults = s.faults ∧ t.host = s.host ∧ t.sched = s.sched ∧ t.platform = s.platform ∧ t.ctr = s.ctr

/-- The registers each instruction leaves unchanged: a configuration register changes by a write to it alone,
CMD_LATCH, LATCH and BUSY by a CMD write alone, STATUS by a CMD or STATUS write alone. -/
def Obligations.RegistersChangeOnlyByTheirWrites : Prop :=
  ∀ (i : Instr) (s t : State), exec i s = .next t →
    (t.irqEn ≠ s.irqEn → ∃ d, i = .regWrIrqEn d)
      ∧ (t.srcBase ≠ s.srcBase → ∃ d, i = .regWrSrcBase d)
      ∧ (t.srcW ≠ s.srcW ∨ t.srcH ≠ s.srcH → ∃ d, i = .regWrSrcDim d)
      ∧ (t.ch ≠ s.ch → ∃ d, i = .regWrSrcCh d)
      ∧ (t.dstBase ≠ s.dstBase → ∃ d, i = .regWrDstBase d)
      ∧ (t.dstW ≠ s.dstW ∨ t.dstH ≠ s.dstH → ∃ d, i = .regWrDstDim d)
      ∧ (t.cmdLatch ≠ s.cmdLatch ∨ t.latch ≠ s.latch ∨ t.status.busy ≠ s.status.busy →
          i = .resizeNn ∨ i = .resizeBl ∨ ∃ d, i = .regWrCmd d)
      ∧ (t.status ≠ s.status →
          i = .resizeNn ∨ i = .resizeBl ∨ (∃ d, i = .regWrCmd d) ∨ ∃ d, i = .regWrStatus d)

/-! The engine. -/

/-- 40_resize.md R102 with R104: RESIZE.NN's work on a command whose source is defined and whose accesses are
admitted. Every destination sample is the source sample at the floored coordinates, DONE rises, BUSY falls and LATCH
is empty. -/
def Obligations.NearestResizeWritesItsSamples : Prop :=
  ∀ (s : State) (L : Latch),
    s.faults = [] → nextMove s = .engine → s.latch = some L → L.op = .nearest →
    L.Valid (addrLimit s.platform) → SourceDefined s L → RegionsAdmitted s.platform L →
      ∃ t, step s = .next t
        ∧ t.status = { s.status with busy := false, done := true }
        ∧ t.latch = none
        ∧ ∀ dx dy c : Nat, dx < L.dw.toNat → dy < L.dh.toNat → c < L.ch.toNat →
            readByte t.mem (L.db.toNat + (dy * L.dw.toNat + dx) * L.ch.toNat + c)
              = readByte s.mem (L.sb.toNat
                  + ((dy * L.sh.toNat / L.dh.toNat) * L.sw.toNat + dx * L.sw.toNat / L.dw.toNat) * L.ch.toNat
                  + c)

/-- 40_resize.md R103 with R104: RESIZE.BL's work under the same conditions. Every destination sample is the truncated
blend of its four neighbours, in the rule's integer form. -/
def Obligations.BilinearResizeWritesItsSamples : Prop :=
  ∀ (s : State) (L : Latch),
    s.faults = [] → nextMove s = .engine → s.latch = some L → L.op = .bilinear →
    L.Valid (addrLimit s.platform) → SourceDefined s L → RegionsAdmitted s.platform L →
      ∃ t, step s = .next t
        ∧ t.status = { s.status with busy := false, done := true }
        ∧ t.latch = none
        ∧ ∀ dx dy c : Nat, dx < L.dw.toNat → dy < L.dh.toNat → c < L.ch.toNat →
            let sw := L.sw.toNat
            let sh := L.sh.toNat
            let nx := if L.dw.toNat = 1 then 0 else dx * (sw - 1)
            let ax := if L.dw.toNat = 1 then 1 else L.dw.toNat - 1
            let ny := if L.dh.toNat = 1 then 0 else dy * (sh - 1)
            let ay := if L.dh.toNat = 1 then 1 else L.dh.toNat - 1
            let x0 := nx / ax
            let x1 := min (x0 + 1) (sw - 1)
            let y0 := ny / ay
            let y1 := min (y0 + 1) (sh - 1)
            let rx := nx % ax
            let ry := ny % ay
            let src (x y : Nat) : Nat := L.sb.toNat + (y * sw + x) * L.ch.toNat + c
            ∃ p00 p10 p01 p11 : Byte,
              readByte s.mem (src x0 y0) = some p00
                ∧ readByte s.mem (src x1 y0) = some p10
                ∧ readByte s.mem (src x0 y1) = some p01
                ∧ readByte s.mem (src x1 y1) = some p11
                ∧ readByte t.mem (L.db.toNat + (dy * L.dw.toNat + dx) * L.ch.toNat + c)
                    = some (BitVec.ofNat 8 (((ax - rx) * (ay - ry) * p00.toNat + rx * (ay - ry) * p10.toNat
                        + (ax - rx) * ry * p01.toNat + rx * ry * p11.toNat) / (ax * ay)))

/-- 20_memory.md R66 and 40_resize.md R104: an engine step changes no byte outside the destination region, and no
register but STATUS and LATCH. -/
def Obligations.EngineChangesOnlyTheDestination : Prop :=
  ∀ s t : State, nextMove s = .engine → step s = .next t →
    (∀ a : Nat, (∀ L, s.latch = some L → a < L.dst.base ∨ L.dst.stop ≤ a) →
        readByte t.mem a = readByte s.mem a)
      ∧ t = { s with
          status := t.status, latch := t.latch, mem := t.mem, faults := t.faults,
          sched := s.sched.tail, ctr := t.ctr }

/-- 40_resize.md R114: after a command's completion, in either mode and also with a bus error, every byte of its
source region is as it was. -/
def Obligations.SourceIsPreserved : Prop :=
  ∀ (s t : State) (L : Latch), Inv s → s.latch = some L → nextMove s = .engine → step s = .next t →
    ∀ a : Nat, L.src.base ≤ a → a < L.src.stop → readByte t.mem a = readByte s.mem a

/-- 40_resize.md R104 and 60_exceptions.md R163: a command with an access the platform does not admit ends with ERR
and BUS_ERROR, its destination undefined and every other byte unchanged. The access is a destination write, or a
source read of weight not 0. That the whole destination is undefined is the model's choice among the three that R163
allows (log entry 9). -/
def Obligations.RefusedAccessEndsWithBusError : Prop :=
  ∀ (s : State) (L : Latch),
    s.faults = [] → nextMove s = .engine → s.latch = some L →
    ((∃ k, k < L.dst.size ∧ memAdmits s.platform (L.dst.base + k) .write = false)
      ∨ ∃ k, k < L.dst.size ∧ ∃ p ∈ (plan L k).taps,
          p.weight ≠ 0 ∧ memAdmits s.platform p.addr .read = false) →
      ∃ t, step s = .next t
        ∧ t.status = { s.status with busy := false, err := true, errCode := 0x7#4 }
        ∧ t.latch = none
        ∧ (∀ a, L.dst.base ≤ a → a < L.dst.stop → readByte t.mem a = none)
        ∧ ∀ a, a < L.dst.base ∨ L.dst.stop ≤ a → readByte t.mem a = readByte s.mem a

/-- 20_memory.md R76: where every access is admitted and a source byte of weight not 0 is undefined, the engine's step
records UNINIT_READ and supplies no value (the rest of the state left as it was is the model's, log entry 10). -/
def Obligations.UndefinedSourceRecordsUninitRead : Prop :=
  ∀ (s : State) (L : Latch),
    s.faults = [] → nextMove s = .engine → s.latch = some L →
    L.Valid (addrLimit s.platform) → RegionsAdmitted s.platform L →
    (∃ k, k < L.dst.size ∧ ∃ p ∈ (plan L k).taps, p.weight ≠ 0 ∧ readByte s.mem p.addr = none) →
      step s = .next { s with faults := [.uninitRead], sched := s.sched.tail }

/-- 70_reset_and_hazards.md R206 and 40_resize.md R104: once the schedule is used up, a running command whose source
is defined completes in the next step, with DONE or with BUS_ERROR (that the engine then moves first is the model's
reading of weak fairness, log entry 2). -/
def Obligations.RunningCommandCompletes : Prop :=
  ∀ s : State, Inv s → s.faults = [] → s.sched = [] → s.status.busy = true →
    (∀ L, s.latch = some L → SourceDefined s L) →
      ∃ t, step s = .next t ∧ t.status.busy = false ∧ t.latch = none ∧ t.faults = []
        ∧ ((t.status.done = true ∧ t.status.err = false)
          ∨ (t.status.done = false ∧ t.status.err = true ∧ t.status.errCode = 0x7#4))

/-- 40_resize.md R102 to R104 end to end: in an idle machine with a valid setup, a defined source and admitted
accesses, a host whose next statement writes a resize command gets it accepted in one step and completed in the next:
the destination holds the samples of the plan, every byte outside it is as it was, and STATUS shows DONE (with the
schedule used up the engine moves next, log entry 2). -/
def Obligations.ResizeCommandEndToEnd : Prop :=
  ∀ (s : State) (op : Mode) (v : Word) (x : Option Temp),
    modeOf v = some op →
    s.faults = [] → s.sched = [] → s.status.busy = false → ValidSetup s →
    nextMove s = .host (.bus x (writeOf .cmd v)) →
    SourceDefined s (operands op s) → RegionsAdmitted s.platform (operands op s) →
      ∃ t u, step s = .next t ∧ step t = .next u
        ∧ t.status.busy = true ∧ t.latch = some (operands op s)
        ∧ u.status.busy = false ∧ u.status.done = true ∧ u.status.err = false ∧ u.faults = []
        ∧ u.cmdLatch = v ∧ u.latch = none
        ∧ (∀ dx dy c : Nat, dx < s.dstW.toNat → dy < s.dstH.toNat → c < s.ch.toNat →
            readByte u.mem ((operands op s).dst.addr dx dy c)
              = sampleOf s.mem (planAt (operands op s) { dx := dx, dy := dy, c := c }))
        ∧ ∀ a : Nat, a < (operands op s).dst.base ∨ (operands op s).dst.stop ≤ a →
            readByte u.mem a = readByte s.mem a

/-! The laws of the two commands. -/

/-- 40_resize.md R106: the nearest coordinate is the exact floor over the rationals, a valid index, and
non-decreasing. -/
def Obligations.NearestCoordinateLaw : Prop :=
  ∀ s dd : Nat, 1 ≤ s → 1 ≤ dd →
    (∀ d, d < dd → nearestIndex d s dd = ⌊(d : ℚ) * ((s : ℚ) / (dd : ℚ))⌋₊ ∧ nearestIndex d s dd ≤ s - 1)
      ∧ ∀ d e, d ≤ e → e < dd → nearestIndex d s dd ≤ nearestIndex e s dd

/-- 40_resize.md R107: the bilinear coordinate and its fractional weight are exact, and the weight lies in [0, 1). -/
def Obligations.BilinearCoordinateLaw : Prop :=
  ∀ d s dd : Nat, 1 ≤ s → 2 ≤ dd → d < dd →
    ((axis d s dd).i0 : ℚ) + ((axis d s dd).r : ℚ) / ((axis d s dd).a : ℚ)
        = (d : ℚ) * (((s : ℚ) - 1) / ((dd : ℚ) - 1))
      ∧ (axis d s dd).r < (axis d s dd).a
      ∧ 0 ≤ ((axis d s dd).r : ℚ) / ((axis d s dd).a : ℚ)
      ∧ ((axis d s dd).r : ℚ) / ((axis d s dd).a : ℚ) < 1
      ∧ (axis d s dd).i0 = ⌊(d : ℚ) * (((s : ℚ) - 1) / ((dd : ℚ) - 1))⌋₊

/-- 40_resize.md R108: the sample a bilinear plan gives is the floor of the real-valued blend of its neighbours. -/
def Obligations.BilinearBlendLaw : Prop :=
  ∀ (m : Mem) (L : Latch) (p : Coord) (p00 p10 p01 p11 : Byte),
    p.dx < L.dw.toNat → p.dy < L.dh.toNat →
    let x := axis p.dx L.sw.toNat L.dw.toNat
    let y := axis p.dy L.sh.toNat L.dh.toNat
    readByte m (L.src.addr x.i0 y.i0 p.c) = some p00 →
    readByte m (L.src.addr x.i1 y.i0 p.c) = some p10 →
    readByte m (L.src.addr x.i0 y.i1 p.c) = some p01 →
    readByte m (L.src.addr x.i1 y.i1 p.c) = some p11 →
      let fx : ℚ := (x.r : ℚ) / (x.a : ℚ)
      let fy : ℚ := (y.r : ℚ) / (y.a : ℚ)
      ∃ b : Byte, sampleOf m (bilinearPlan L p) = some b
        ∧ b.toNat = ⌊(1 - fx) * (1 - fy) * p00.toNat + fx * (1 - fy) * p10.toNat
            + (1 - fx) * fy * p01.toNat + fx * fy * p11.toNat⌋₊

/-- 40_resize.md R109: with 16-bit dimensions every intermediate fits the datapath, and the blend fits a byte with no
clamp and no wrap. -/
def Obligations.DatapathWidthLaw : Prop :=
  ∀ dx dy sw sh dw dh w h c : Nat,
    dx < dw → dy < dh → sw ≤ 65535 → sh ≤ 65535 → dw ≤ 65535 → dh ≤ 65535 →
    w ≤ 65535 → h ≤ 65535 → c ≤ 7 →
    let x := axis dx sw dw
    let y := axis dy sh dh
    dx * (sw - 1) < 2 ^ 32 ∧ dx * sw < 2 ^ 32
      ∧ x.a * y.a ≤ 65534 ^ 2 ∧ x.a * y.a < 2 ^ 32
      ∧ (∀ p00 p10 p01 p11 : Nat, p00 ≤ 255 → p10 ≤ 255 → p01 ≤ 255 → p11 ≤ 255 →
          let S := (x.a - x.r) * (y.a - y.r) * p00 + x.r * (y.a - y.r) * p10
            + (x.a - x.r) * y.r * p01 + x.r * y.r * p11
          S ≤ 255 * x.a * y.a ∧ S < 2 ^ 40 ∧ S / (x.a * y.a) ≤ 255)
      ∧ w * h * c ≤ 65535 ^ 2 * 7 ∧ w * h * c < 2 ^ 35

/-- 40_resize.md R110: with equal dimensions both commands write a destination equal to the source, sample for
sample. -/
def Obligations.IdentityResizeCopies : Prop :=
  ∀ (s : State) (L : Latch),
    s.faults = [] → nextMove s = .engine → s.latch = some L → L.Valid (addrLimit s.platform) →
    SourceDefined s L → RegionsAdmitted s.platform L → L.dw = L.sw → L.dh = L.sh →
      ∃ t, step s = .next t ∧ t.status.done = true
        ∧ ∀ x y c : Nat, x < L.sw.toNat → y < L.sh.toNat → c < L.ch.toNat →
            readByte t.mem (L.dst.addr x y c) = readByte s.mem (L.src.addr x y c)

/-- 40_resize.md R111: a channel that is constant in the source is the same constant in the destination, in both
modes. -/
def Obligations.ConstantImageStaysConstant : Prop :=
  ∀ (s : State) (L : Latch) (c : Nat) (v : Byte),
    s.faults = [] → nextMove s = .engine → s.latch = some L → L.Valid (addrLimit s.platform) →
    SourceDefined s L → RegionsAdmitted s.platform L → c < L.ch.toNat →
    (∀ x y : Nat, x < L.sw.toNat → y < L.sh.toNat → readByte s.mem (L.src.addr x y c) = some v) →
      ∃ t, step s = .next t ∧ t.status.done = true
        ∧ ∀ dx dy : Nat, dx < L.dw.toNat → dy < L.dh.toNat →
            readByte t.mem (L.dst.addr dx dy c) = some v

/-- 40_resize.md R112: every index and every address the engine forms lies in its region. -/
def Obligations.AddressLaw : Prop :=
  ∀ (limit : Nat) (L : Latch) (dx dy c : Nat), L.Valid limit →
    dx < L.dw.toNat → dy < L.dh.toNat → c < L.ch.toNat →
      nearestIndex dx L.sw.toNat L.dw.toNat ≤ L.sw.toNat - 1
        ∧ nearestIndex dy L.sh.toNat L.dh.toNat ≤ L.sh.toNat - 1
        ∧ (axis dx L.sw.toNat L.dw.toNat).i0 ≤ L.sw.toNat - 1
        ∧ (axis dx L.sw.toNat L.dw.toNat).i1 ≤ L.sw.toNat - 1
        ∧ (axis dy L.sh.toNat L.dh.toNat).i0 ≤ L.sh.toNat - 1
        ∧ (axis dy L.sh.toNat L.dh.toNat).i1 ≤ L.sh.toNat - 1
        ∧ (∀ p ∈ (planAt L { dx := dx, dy := dy, c := c }).taps, L.src.base ≤ p.addr ∧ p.addr < L.src.stop)
        ∧ L.dst.base ≤ L.dst.addr dx dy c ∧ L.dst.addr dx dy c < L.dst.stop

/-- 20_memory.md R68: no address wraps. A region past 2^ADDR_WIDTH is rejected with OUT_OF_RANGE (when the checks
before it pass), and every address of a running command is below 2^ADDR_WIDTH. -/
def Obligations.NoAddressWraps : Prop :=
  (∀ (s : State) (L : Latch), Inv s → s.latch = some L →
    ∀ k, k < L.dst.size → L.dst.base + k < 2 ^ s.platform.addrWidth
      ∧ ∀ p ∈ (plan L k).taps, p.addr < 2 ^ s.platform.addrWidth)
    ∧ ∀ s : State, s.status.busy = false →
      0 < s.srcW.toNat → 0 < s.srcH.toNat → 0 < s.dstW.toNat → 0 < s.dstH.toNat →
      (s.ch.toNat = 1 ∨ s.ch.toNat = 3 ∨ s.ch.toNat = 4) →
      (2 ^ s.platform.addrWidth < s.srcBase.toNat + s.srcW.toNat * s.srcH.toNat * s.ch.toNat
        ∨ 2 ^ s.platform.addrWidth < s.dstBase.toNat + s.dstW.toNat * s.dstH.toNat * s.ch.toNat) →
        (∃ t, exec .resizeNn s = .next t ∧ t.status.err = true ∧ t.status.errCode = 0x3#4)
          ∧ ∃ t, exec .resizeBl s = .next t ∧ t.status.err = true ∧ t.status.errCode = 0x3#4

/-- 40_resize.md R113: two runs of one command whose sources agree on channel `c` write the same channel `c`,
whatever the other channels hold. -/
def Obligations.ChannelsAreIndependent : Prop :=
  ∀ (s1 s2 : State) (L : Latch) (c : Nat),
    s1.faults = [] → nextMove s1 = .engine → s1.latch = some L → L.Valid (addrLimit s1.platform) →
    SourceDefined s1 L → RegionsAdmitted s1.platform L →
    s2.faults = [] → nextMove s2 = .engine → s2.latch = some L → L.Valid (addrLimit s2.platform) →
    SourceDefined s2 L → RegionsAdmitted s2.platform L →
    (∀ x y : Nat, x < L.sw.toNat → y < L.sh.toNat →
      readByte s1.mem (L.src.addr x y c) = readByte s2.mem (L.src.addr x y c)) →
      ∃ t1 t2, step s1 = .next t1 ∧ step s2 = .next t2
        ∧ ∀ dx dy : Nat, dx < L.dw.toNat → dy < L.dh.toNat → c < L.ch.toNat →
            readByte t1.mem (L.dst.addr dx dy c) = readByte t2.mem (L.dst.addr dx dy c)

/-- 00_scope.md R12: the samples of a buffer fill `[base, base + W*H*C)`, each address with exactly one sample. -/
def Obligations.SamplesFillTheBuffer : Prop :=
  ∀ b : Buffer,
    (∀ x y c : Nat, x < b.w → y < b.h → c < b.c →
      b.base ≤ b.addr x y c ∧ b.addr x y c < b.base + b.w * b.h * b.c)
      ∧ (∀ x y c x' y' c' : Nat, x < b.w → y < b.h → c < b.c → x' < b.w → y' < b.h → c' < b.c →
        b.addr x y c = b.addr x' y' c' → x = x' ∧ y = y' ∧ c = c')
      ∧ ∀ a : Nat, b.base ≤ a → a < b.base + b.w * b.h * b.c →
          ∃ x y c, x < b.w ∧ y < b.h ∧ c < b.c ∧ b.addr x y c = a

/-- 10_state.md R38 and 70_reset_and_hazards.md R201: a configuration write while a command runs does not reach it:
writing before the engine's step or after it gives the same machine. -/
def Obligations.ConfigurationWritesDoNotReachTheEngine : Prop :=
  ∀ (s : State) (d : Word) (i : Instr),
    (i = .regWrIrqEn d ∨ i = .regWrSrcBase d ∨ i = .regWrSrcDim d ∨ i = .regWrSrcCh d
      ∨ i = .regWrDstBase d ∨ i = .regWrDstDim d) →
      ∃ t, exec i s = .next t ∧ exec i (engineStep s) = .next (engineStep t)

/-! Interrupts. -/

/-- 10_state.md R40: IRQ is the OR of the enabled pending flags, and 0 after reset. -/
def Obligations.IrqIsTheEnabledPendingFlags : Prop :=
  (∀ s : State, irq s = ((s.status.done && s.irqEn.getLsbD 0) || (s.status.err && s.irqEn.getLsbD 1)
      || (s.status.dropped && s.irqEn.getLsbD 2)))
    ∧ irq State.reset = false
    ∧ ∀ s : State, irq (blockReset s) = false

/-- 60_exceptions.md R167, R168: IRQ stays high until a pending flag is cleared or masked: a step lowers it only by a
reset, a STATUS write, an IRQ_EN write or a CMD write (the next acceptance). -/
def Obligations.IrqFallsOnlyByTheHost : Prop :=
  ∀ s t : State, Inv s → step s = .next t → irq s = true → irq t = false →
    nextMove s = .reset
      ∨ ∃ (x : Option Temp) (a : Access) (d : Word), nextMove s = .host (.bus x a)
          ∧ (decode a = .instr (.regWrStatus d) ∨ decode a = .instr (.regWrIrqEn d)
            ∨ decode a = .instr .resizeNn ∨ decode a = .instr .resizeBl ∨ decode a = .instr (.regWrCmd d))

/-! Invariants and whole-machine rules. -/

/-- 10_state.md R27, R44, 60_exceptions.md R160, R161: every step keeps the invariant. -/
def Obligations.StepKeepsTheInvariant : Prop :=
  ∀ s t : State, Inv s → step s = .next t → Inv t

/-- The invariant holds after reset. -/
def Obligations.ResetMeetsTheInvariant : Prop :=
  Inv State.reset

/-- 00_scope.md R7 names the platform's parameters; that no step changes them, memAdmits, REG_BASE and the window's
placement among them, is the model's choice (log entries 4 and 5; ADDR_WIDTH, log entry 6). -/
def Obligations.PlatformIsFixed : Prop :=
  ∀ s t : State, step s = .next t → t.platform = s.platform

/-- 10_state.md R25: BUSY rises only at the acceptance of a valid command and falls only at the engine's completion
step or a reset; its reset value is 0. -/
def Obligations.BusyFollowsAcceptanceAndCompletion : Prop :=
  (∀ s t : State, step s = .next t → s.status.busy = false → t.status.busy = true →
    ∃ (x : Option Temp) (a : Access) (op : Mode), nextMove s = .host (.bus x a)
      ∧ (a.dir = .write ∧ a.off = 0x004#12 ∧ modeOf a.data = some op)
      ∧ (operands op s).Valid (addrLimit s.platform) ∧ t.latch = some (operands op s))
    ∧ (∀ s t : State, step s = .next t → s.status.busy = true → t.status.busy = false →
      nextMove s = .engine ∨ nextMove s = .reset)
    ∧ State.reset.status.busy = false

/-- 10_state.md R28: DROPPED rises only by a CMD write while BUSY = 1, and falls only by a STATUS write with bit 3 or
a reset; its reset value is 0. -/
def Obligations.DroppedIsSticky : Prop :=
  (∀ (s : State) (v : Word), s.status.busy = true →
    ∃ t, exec (.regWrCmd v) s = .next t ∧ t.status.dropped = true)
    ∧ (∀ s t : State, step s = .next t → s.status.dropped = false → t.status.dropped = true →
      s.status.busy = true ∧ ∃ (x : Option Temp) (a : Access), nextMove s = .host (.bus x a)
        ∧ a.dir = .write ∧ a.off = 0x004#12)
    ∧ (∀ s t : State, step s = .next t → s.status.dropped = true → t.status.dropped = false →
      nextMove s = .reset ∨ ∃ (x : Option Temp) (a : Access), nextMove s = .host (.bus x a)
        ∧ a.dir = .write ∧ a.off = 0x008#12 ∧ a.data.getLsbD 3 = true)
    ∧ State.reset.status.dropped = false

/-- 10_state.md R26, R27, R41: DONE rises only by the engine's completion, ERR only by it or by a command that is
rejected; each falls only by a reset, a CMD write while BUSY = 0, or a STATUS write with its bit. -/
def Obligations.DoneAndErrFollowTheirRules : Prop :=
  ∀ s t : State, step s = .next t →
    let cmdWritten : Prop := s.status.busy = false ∧ ∃ (x : Option Temp) (a : Access),
      nextMove s = .host (.bus x a) ∧ a.dir = .write ∧ a.off = 0x004#12
    let statusWritten (b : Nat) : Prop := ∃ (x : Option Temp) (a : Access),
      nextMove s = .host (.bus x a) ∧ a.dir = .write ∧ a.off = 0x008#12 ∧ a.data.getLsbD b = true
    (s.status.done = false → t.status.done = true → nextMove s = .engine)
      ∧ (s.status.err = false → t.status.err = true → nextMove s = .engine ∨ cmdWritten)
      ∧ (s.status.done = true → t.status.done = false → nextMove s = .reset ∨ cmdWritten ∨ statusWritten 1)
      ∧ (s.status.err = true → t.status.err = false → nextMove s = .reset ∨ cmdWritten ∨ statusWritten 2)

/-- 20_memory.md R66, R67, 60_exceptions.md R164: sample memory changes only by the engine's completion, a reset
during a command, or a host write to sample memory; no register access changes it. -/
def Obligations.MemoryChangesOnlyBy : Prop :=
  ∀ (s t : State) (a : Nat), step s = .next t → readByte t.mem a ≠ readByte s.mem a →
    nextMove s = .engine ∨ nextMove s = .reset ∨ ∃ (b : Word) (bs : List Byte), nextMove s = .host (.wrmem b bs)

/-- 70_reset_and_hazards.md R207: a run whose host executed HALT while BUSY = 1 is not over, and the engine's
completion ends it; a run that is over stays as it is (with the schedule used up the engine moves next, log entry 2). -/
def Obligations.HaltedRunContinuesToItsEnd : Prop :=
  (∀ s : State, Inv s → Safe s → s.sched = [] → s.host.halted = true → s.status.busy = true →
    (∀ L, s.latch = some L → SourceDefined s L) →
      ¬RunOver s ∧ ∃ t, step s = .next t ∧ RunOver t)
    ∧ ∀ s : State, RunOver s → s.sched = [] → step s = .next s

/-! The host and sample memory. -/

/-- 70_reset_and_hazards.md R200, 60_exceptions.md R175: while BUSY = 1 a host write to the source or destination
region, and a host read of the destination region, records HAZARD; a host read of the source region gives its byte.
The model's choices: the offending access itself changes nothing and the host moves on (log entry 7); a WRMEM that
meets a region at its byte `pre.length` has stored the bytes before it and stores none after (log entry 21), in memory
when performed (log entry 15); memAdmits governs neither those bytes nor the read (log entry 29); on the register
window the access is no HAZARD (log entry 31), and HAZARD alone is recorded where the byte read is undefined as well
(log entry 32). -/
def Obligations.RegionHazard : Prop :=
  ∀ (s : State) (L : Latch) (t : Temp) (a : Word) (v : Byte),
    Inv s → s.faults = [] → s.latch = some L →
    (∀ pre post : List Byte, nextMove s = .host (.wrmem a (pre ++ v :: post)) →
        let b := a.toNat + pre.length
        inWindow s.platform b = false → (L.src.contains b = true ∨ L.dst.contains b = true) →
        (∀ k, k < pre.length → inWindow s.platform (a.toNat + k) = false
          ∧ L.src.contains (a.toNat + k) = false ∧ L.dst.contains (a.toNat + k) = false) →
          ∃ m : Mem, step s = .next { s with
              mem := m, faults := [.hazard], sched := s.sched.tail, host := { s.host with pc := s.host.pc + 1 } }
            ∧ (∀ k, k < pre.length → readByte m (a.toNat + k) = pre[k]?)
            ∧ (∀ c, c < a.toNat ∨ b ≤ c → readByte m c = readByte s.mem c)
            ∧ (pre = [] → m = s.mem))
      ∧ (inWindow s.platform a.toNat = false → nextMove s = .host (.rdmem t a) → L.dst.contains a.toNat = true →
        step s = .next { s with
          faults := [.hazard], sched := s.sched.tail, host := { s.host with pc := s.host.pc + 1 } })
      ∧ (inWindow s.platform a.toNat = false → nextMove s = .host (.rdmem t a) →
        L.src.contains a.toNat = true → readByte s.mem a.toNat = some v →
        step s = .next { s with
          sched := s.sched.tail
          host := { s.host with
            pc := s.host.pc + 1, temps := s.host.temps.set t.val (BitVec.setWidth 32 v) } })

/-- 20_memory.md R60, R64: a host sample access past the address space, or on the register window. That the first
records the model's own noSuchAddress is log entry 19, that the second is the window's REG_ACCESS_SIZE is log entry 20,
that the access itself changes nothing is log entry 7, that a WRMEM has stored the bytes before it is log entry 21,
that they are in memory when performed is log entry 15, that memAdmits does not govern them is log entry 29, that an
access on the window is no HAZARD where a region covers it is log entry 31, and that one fault is recorded where two
apply is log entry 32: each the model's choice. -/
def Obligations.HostAccessOffSampleMemoryRecordsAFault : Prop :=
  ∀ (s : State) (t : Temp) (a : Word) (v : Byte), s.faults = [] →
    let stopped (m : Mem) (f : Fault) : State := { s with
      mem := m, faults := [f], sched := s.sched.tail, host := { s.host with pc := s.host.pc + 1 } }
    let limit := 2 ^ s.platform.addrWidth
    (nextMove s = .host (.rdmem t a) →
        (limit ≤ a.toNat → step s = .next (stopped s.mem .noSuchAddress))
          ∧ (a.toNat < limit → inWindow s.platform a.toNat = true →
              step s = .next (stopped s.mem .regAccessSize)))
      ∧ ∀ pre post : List Byte, nextMove s = .host (.wrmem a (pre ++ v :: post)) →
        let b := a.toNat + pre.length
        (∀ k, k < pre.length → a.toNat + k < limit ∧ inWindow s.platform (a.toNat + k) = false
          ∧ ∀ L, s.latch = some L →
              L.src.contains (a.toNat + k) = false ∧ L.dst.contains (a.toNat + k) = false) →
          ∃ m : Mem, (limit ≤ b → step s = .next (stopped m .noSuchAddress))
            ∧ (b < limit → inWindow s.platform b = true → step s = .next (stopped m .regAccessSize))
            ∧ (∀ k, k < pre.length → readByte m (a.toNat + k) = pre[k]?)
            ∧ (∀ c, c < a.toNat ∨ b ≤ c → readByte m c = readByte s.mem c)
            ∧ (pre = [] → m = s.mem)

/-- 30_encoding.md R86, 20_memory.md R60, 70_reset_and_hazards.md R200: a WRMEM off both regions of a running command,
or with none running, stores its bytes at the rising addresses and changes no other byte, and nothing but memory, the
schedule and the host's place. The model's choices: WRMEM is one
step (log entry 21), its bytes are in memory when it is performed (log entry 15), and memAdmits does not govern it (log
entry 29). -/
def Obligations.HostWriteStoresItsBytes : Prop :=
  ∀ (s : State) (a : Word) (bs : List Byte),
    s.faults = [] → nextMove s = .host (.wrmem a bs) →
    a.toNat + bs.length ≤ 2 ^ s.platform.addrWidth →
    (∀ k, k < bs.length → inWindow s.platform (a.toNat + k) = false) →
    (∀ k L, k < bs.length → s.latch = some L →
      L.src.contains (a.toNat + k) = false ∧ L.dst.contains (a.toNat + k) = false) →
      ∃ t, step s = .next t
        ∧ (∀ k, k < bs.length → readByte t.mem (a.toNat + k) = bs[k]?)
        ∧ (∀ b, b < a.toNat ∨ a.toNat + bs.length ≤ b → readByte t.mem b = readByte s.mem b)
        ∧ t = { s with
            mem := t.mem, sched := s.sched.tail, host := { s.host with pc := s.host.pc + 1 } }

/-- 30_encoding.md R86, 20_memory.md R76, 70_reset_and_hazards.md R200: an RDMEM off the destination of a running
command, or with none running, loads the byte; an undefined byte records UNINIT_READ and no value is supplied. That the access itself then changes nothing is log entry 7, and that memAdmits
does not govern it is log entry 29: both the model's choice. -/
def Obligations.HostReadLoadsTheByte : Prop :=
  ∀ (s : State) (t : Temp) (a : Word),
    s.faults = [] → nextMove s = .host (.rdmem t a) →
    a.toNat < 2 ^ s.platform.addrWidth → inWindow s.platform a.toNat = false →
    (∀ L, s.latch = some L → L.dst.contains a.toNat = false) →
      (∀ v, readByte s.mem a.toNat = some v → step s = .next { s with
        sched := s.sched.tail
        host := { s.host with
          pc := s.host.pc + 1, temps := s.host.temps.set t.val (BitVec.setWidth 32 v) } })
      ∧ (readByte s.mem a.toNat = none → step s = .next { s with
        faults := [.uninitRead]
        sched := s.sched.tail
        host := { s.host with pc := s.host.pc + 1 } })

/-! Reset. -/

/-- 70_reset_and_hazards.md R190, R192, R193: a reset, also during a command, puts every piece of block state to its reset
value; sample memory is unchanged but for the destination of a running command, whose bytes are undefined; no DONE,
ERR or IRQ reports the command. -/
def Obligations.ResetPutsTheBlockInItsResetState : Prop :=
  ∀ s : State, Inv s → s.faults = [] → nextMove s = .reset →
    ∃ t, step s = .next t
      ∧ exec .regRdId t = .next { t with resp := .data 0x42520001#32 }
      ∧ t.status = { busy := false, done := false, err := false, dropped := false, errCode := 0#4 }
      ∧ t.irqEn = 0#3 ∧ t.srcBase = 0#32 ∧ t.srcW = 0#16 ∧ t.srcH = 0#16 ∧ t.ch = 0#3
      ∧ t.dstBase = 0#32 ∧ t.dstW = 0#16 ∧ t.dstH = 0#16 ∧ t.cmdLatch = 0#32 ∧ t.latch = none
      ∧ irq t = false
      ∧ (s.latch = none → t.mem = s.mem)
      ∧ ∀ L, s.latch = some L →
          (∀ a, L.src.base ≤ a → a < L.src.stop → readByte t.mem a = readByte s.mem a)
            ∧ (∀ a, L.dst.base ≤ a → a < L.dst.stop → readByte t.mem a = none)
            ∧ ∀ a, a < L.dst.base ∨ L.dst.stop ≤ a → readByte t.mem a = readByte s.mem a

/-- 70_reset_and_hazards.md R190, R193: the machine's first state. Every register holds its reset value and every
sample byte is undefined. -/
def Obligations.FirstStateHoldsTheResetValues : Prop :=
  statusWord State.reset.status = 0#32 ∧ State.reset.irqEn = 0#3
    ∧ State.reset.srcBase = 0#32 ∧ dimWord State.reset.srcW State.reset.srcH = 0#32 ∧ State.reset.ch = 0#3
    ∧ State.reset.dstBase = 0#32 ∧ dimWord State.reset.dstW State.reset.dstH = 0#32
    ∧ State.reset.cmdLatch = 0#32 ∧ State.reset.latch = none ∧ State.reset.faults = []
    ∧ irq State.reset = false
    ∧ ∀ a : Nat, readByte State.reset.mem a = none
end

