-- ==== Sys2Proof/Laws/State.lean ====
section
/-! SUPPORT. One lemma for each field under each named update of State: the field written holds the value, every
other field is as before. -/

namespace Sys2Proof.Machine.State

variable (s : State)

@[simp] theorem setStatus_status (v : Status) : (s.setStatus v).status = v := rfl
@[simp] theorem setStatus_irqEn (v : Status) : (s.setStatus v).irqEn = s.irqEn := rfl
@[simp] theorem setStatus_srcBase (v : Status) : (s.setStatus v).srcBase = s.srcBase := rfl
@[simp] theorem setStatus_srcW (v : Status) : (s.setStatus v).srcW = s.srcW := rfl
@[simp] theorem setStatus_srcH (v : Status) : (s.setStatus v).srcH = s.srcH := rfl
@[simp] theorem setStatus_ch (v : Status) : (s.setStatus v).ch = s.ch := rfl
@[simp] theorem setStatus_dstBase (v : Status) : (s.setStatus v).dstBase = s.dstBase := rfl
@[simp] theorem setStatus_dstW (v : Status) : (s.setStatus v).dstW = s.dstW := rfl
@[simp] theorem setStatus_dstH (v : Status) : (s.setStatus v).dstH = s.dstH := rfl
@[simp] theorem setStatus_cmdLatch (v : Status) : (s.setStatus v).cmdLatch = s.cmdLatch := rfl
@[simp] theorem setStatus_latch (v : Status) : (s.setStatus v).latch = s.latch := rfl
@[simp] theorem setStatus_mem (v : Status) : (s.setStatus v).mem = s.mem := rfl
@[simp] theorem setStatus_faults (v : Status) : (s.setStatus v).faults = s.faults := rfl
@[simp] theorem setStatus_resp (v : Status) : (s.setStatus v).resp = s.resp := rfl
@[simp] theorem setStatus_host (v : Status) : (s.setStatus v).host = s.host := rfl
@[simp] theorem setStatus_sched (v : Status) : (s.setStatus v).sched = s.sched := rfl
@[simp] theorem setStatus_platform (v : Status) : (s.setStatus v).platform = s.platform := rfl
@[simp] theorem setStatus_ctr (v : Status) : (s.setStatus v).ctr = s.ctr := rfl

@[simp] theorem setIrqEn_status (v : BitVec 3) : (s.setIrqEn v).status = s.status := rfl
@[simp] theorem setIrqEn_irqEn (v : BitVec 3) : (s.setIrqEn v).irqEn = v := rfl
@[simp] theorem setIrqEn_srcBase (v : BitVec 3) : (s.setIrqEn v).srcBase = s.srcBase := rfl
@[simp] theorem setIrqEn_srcW (v : BitVec 3) : (s.setIrqEn v).srcW = s.srcW := rfl
@[simp] theorem setIrqEn_srcH (v : BitVec 3) : (s.setIrqEn v).srcH = s.srcH := rfl
@[simp] theorem setIrqEn_ch (v : BitVec 3) : (s.setIrqEn v).ch = s.ch := rfl
@[simp] theorem setIrqEn_dstBase (v : BitVec 3) : (s.setIrqEn v).dstBase = s.dstBase := rfl
@[simp] theorem setIrqEn_dstW (v : BitVec 3) : (s.setIrqEn v).dstW = s.dstW := rfl
@[simp] theorem setIrqEn_dstH (v : BitVec 3) : (s.setIrqEn v).dstH = s.dstH := rfl
@[simp] theorem setIrqEn_cmdLatch (v : BitVec 3) : (s.setIrqEn v).cmdLatch = s.cmdLatch := rfl
@[simp] theorem setIrqEn_latch (v : BitVec 3) : (s.setIrqEn v).latch = s.latch := rfl
@[simp] theorem setIrqEn_mem (v : BitVec 3) : (s.setIrqEn v).mem = s.mem := rfl
@[simp] theorem setIrqEn_faults (v : BitVec 3) : (s.setIrqEn v).faults = s.faults := rfl
@[simp] theorem setIrqEn_resp (v : BitVec 3) : (s.setIrqEn v).resp = s.resp := rfl
@[simp] theorem setIrqEn_host (v : BitVec 3) : (s.setIrqEn v).host = s.host := rfl
@[simp] theorem setIrqEn_sched (v : BitVec 3) : (s.setIrqEn v).sched = s.sched := rfl
@[simp] theorem setIrqEn_platform (v : BitVec 3) : (s.setIrqEn v).platform = s.platform := rfl
@[simp] theorem setIrqEn_ctr (v : BitVec 3) : (s.setIrqEn v).ctr = s.ctr := rfl

@[simp] theorem setSrcBase_status (v : Word) : (s.setSrcBase v).status = s.status := rfl
@[simp] theorem setSrcBase_irqEn (v : Word) : (s.setSrcBase v).irqEn = s.irqEn := rfl
@[simp] theorem setSrcBase_srcBase (v : Word) : (s.setSrcBase v).srcBase = v := rfl
@[simp] theorem setSrcBase_srcW (v : Word) : (s.setSrcBase v).srcW = s.srcW := rfl
@[simp] theorem setSrcBase_srcH (v : Word) : (s.setSrcBase v).srcH = s.srcH := rfl
@[simp] theorem setSrcBase_ch (v : Word) : (s.setSrcBase v).ch = s.ch := rfl
@[simp] theorem setSrcBase_dstBase (v : Word) : (s.setSrcBase v).dstBase = s.dstBase := rfl
@[simp] theorem setSrcBase_dstW (v : Word) : (s.setSrcBase v).dstW = s.dstW := rfl
@[simp] theorem setSrcBase_dstH (v : Word) : (s.setSrcBase v).dstH = s.dstH := rfl
@[simp] theorem setSrcBase_cmdLatch (v : Word) : (s.setSrcBase v).cmdLatch = s.cmdLatch := rfl
@[simp] theorem setSrcBase_latch (v : Word) : (s.setSrcBase v).latch = s.latch := rfl
@[simp] theorem setSrcBase_mem (v : Word) : (s.setSrcBase v).mem = s.mem := rfl
@[simp] theorem setSrcBase_faults (v : Word) : (s.setSrcBase v).faults = s.faults := rfl
@[simp] theorem setSrcBase_resp (v : Word) : (s.setSrcBase v).resp = s.resp := rfl
@[simp] theorem setSrcBase_host (v : Word) : (s.setSrcBase v).host = s.host := rfl
@[simp] theorem setSrcBase_sched (v : Word) : (s.setSrcBase v).sched = s.sched := rfl
@[simp] theorem setSrcBase_platform (v : Word) : (s.setSrcBase v).platform = s.platform := rfl
@[simp] theorem setSrcBase_ctr (v : Word) : (s.setSrcBase v).ctr = s.ctr := rfl

@[simp] theorem setSrcDim_status (w h : BitVec 16) : (s.setSrcDim w h).status = s.status := rfl
@[simp] theorem setSrcDim_irqEn (w h : BitVec 16) : (s.setSrcDim w h).irqEn = s.irqEn := rfl
@[simp] theorem setSrcDim_srcBase (w h : BitVec 16) : (s.setSrcDim w h).srcBase = s.srcBase := rfl
@[simp] theorem setSrcDim_srcW (w h : BitVec 16) : (s.setSrcDim w h).srcW = w := rfl
@[simp] theorem setSrcDim_srcH (w h : BitVec 16) : (s.setSrcDim w h).srcH = h := rfl
@[simp] theorem setSrcDim_ch (w h : BitVec 16) : (s.setSrcDim w h).ch = s.ch := rfl
@[simp] theorem setSrcDim_dstBase (w h : BitVec 16) : (s.setSrcDim w h).dstBase = s.dstBase := rfl
@[simp] theorem setSrcDim_dstW (w h : BitVec 16) : (s.setSrcDim w h).dstW = s.dstW := rfl
@[simp] theorem setSrcDim_dstH (w h : BitVec 16) : (s.setSrcDim w h).dstH = s.dstH := rfl
@[simp] theorem setSrcDim_cmdLatch (w h : BitVec 16) : (s.setSrcDim w h).cmdLatch = s.cmdLatch := rfl
@[simp] theorem setSrcDim_latch (w h : BitVec 16) : (s.setSrcDim w h).latch = s.latch := rfl
@[simp] theorem setSrcDim_mem (w h : BitVec 16) : (s.setSrcDim w h).mem = s.mem := rfl
@[simp] theorem setSrcDim_faults (w h : BitVec 16) : (s.setSrcDim w h).faults = s.faults := rfl
@[simp] theorem setSrcDim_resp (w h : BitVec 16) : (s.setSrcDim w h).resp = s.resp := rfl
@[simp] theorem setSrcDim_host (w h : BitVec 16) : (s.setSrcDim w h).host = s.host := rfl
@[simp] theorem setSrcDim_sched (w h : BitVec 16) : (s.setSrcDim w h).sched = s.sched := rfl
@[simp] theorem setSrcDim_platform (w h : BitVec 16) : (s.setSrcDim w h).platform = s.platform := rfl
@[simp] theorem setSrcDim_ctr (w h : BitVec 16) : (s.setSrcDim w h).ctr = s.ctr := rfl

@[simp] theorem setCh_status (v : BitVec 3) : (s.setCh v).status = s.status := rfl
@[simp] theorem setCh_irqEn (v : BitVec 3) : (s.setCh v).irqEn = s.irqEn := rfl
@[simp] theorem setCh_srcBase (v : BitVec 3) : (s.setCh v).srcBase = s.srcBase := rfl
@[simp] theorem setCh_srcW (v : BitVec 3) : (s.setCh v).srcW = s.srcW := rfl
@[simp] theorem setCh_srcH (v : BitVec 3) : (s.setCh v).srcH = s.srcH := rfl
@[simp] theorem setCh_ch (v : BitVec 3) : (s.setCh v).ch = v := rfl
@[simp] theorem setCh_dstBase (v : BitVec 3) : (s.setCh v).dstBase = s.dstBase := rfl
@[simp] theorem setCh_dstW (v : BitVec 3) : (s.setCh v).dstW = s.dstW := rfl
@[simp] theorem setCh_dstH (v : BitVec 3) : (s.setCh v).dstH = s.dstH := rfl
@[simp] theorem setCh_cmdLatch (v : BitVec 3) : (s.setCh v).cmdLatch = s.cmdLatch := rfl
@[simp] theorem setCh_latch (v : BitVec 3) : (s.setCh v).latch = s.latch := rfl
@[simp] theorem setCh_mem (v : BitVec 3) : (s.setCh v).mem = s.mem := rfl
@[simp] theorem setCh_faults (v : BitVec 3) : (s.setCh v).faults = s.faults := rfl
@[simp] theorem setCh_resp (v : BitVec 3) : (s.setCh v).resp = s.resp := rfl
@[simp] theorem setCh_host (v : BitVec 3) : (s.setCh v).host = s.host := rfl
@[simp] theorem setCh_sched (v : BitVec 3) : (s.setCh v).sched = s.sched := rfl
@[simp] theorem setCh_platform (v : BitVec 3) : (s.setCh v).platform = s.platform := rfl
@[simp] theorem setCh_ctr (v : BitVec 3) : (s.setCh v).ctr = s.ctr := rfl

@[simp] theorem setDstBase_status (v : Word) : (s.setDstBase v).status = s.status := rfl
@[simp] theorem setDstBase_irqEn (v : Word) : (s.setDstBase v).irqEn = s.irqEn := rfl
@[simp] theorem setDstBase_srcBase (v : Word) : (s.setDstBase v).srcBase = s.srcBase := rfl
@[simp] theorem setDstBase_srcW (v : Word) : (s.setDstBase v).srcW = s.srcW := rfl
@[simp] theorem setDstBase_srcH (v : Word) : (s.setDstBase v).srcH = s.srcH := rfl
@[simp] theorem setDstBase_ch (v : Word) : (s.setDstBase v).ch = s.ch := rfl
@[simp] theorem setDstBase_dstBase (v : Word) : (s.setDstBase v).dstBase = v := rfl
@[simp] theorem setDstBase_dstW (v : Word) : (s.setDstBase v).dstW = s.dstW := rfl
@[simp] theorem setDstBase_dstH (v : Word) : (s.setDstBase v).dstH = s.dstH := rfl
@[simp] theorem setDstBase_cmdLatch (v : Word) : (s.setDstBase v).cmdLatch = s.cmdLatch := rfl
@[simp] theorem setDstBase_latch (v : Word) : (s.setDstBase v).latch = s.latch := rfl
@[simp] theorem setDstBase_mem (v : Word) : (s.setDstBase v).mem = s.mem := rfl
@[simp] theorem setDstBase_faults (v : Word) : (s.setDstBase v).faults = s.faults := rfl
@[simp] theorem setDstBase_resp (v : Word) : (s.setDstBase v).resp = s.resp := rfl
@[simp] theorem setDstBase_host (v : Word) : (s.setDstBase v).host = s.host := rfl
@[simp] theorem setDstBase_sched (v : Word) : (s.setDstBase v).sched = s.sched := rfl
@[simp] theorem setDstBase_platform (v : Word) : (s.setDstBase v).platform = s.platform := rfl
@[simp] theorem setDstBase_ctr (v : Word) : (s.setDstBase v).ctr = s.ctr := rfl

@[simp] theorem setDstDim_status (w h : BitVec 16) : (s.setDstDim w h).status = s.status := rfl
@[simp] theorem setDstDim_irqEn (w h : BitVec 16) : (s.setDstDim w h).irqEn = s.irqEn := rfl
@[simp] theorem setDstDim_srcBase (w h : BitVec 16) : (s.setDstDim w h).srcBase = s.srcBase := rfl
@[simp] theorem setDstDim_srcW (w h : BitVec 16) : (s.setDstDim w h).srcW = s.srcW := rfl
@[simp] theorem setDstDim_srcH (w h : BitVec 16) : (s.setDstDim w h).srcH = s.srcH := rfl
@[simp] theorem setDstDim_ch (w h : BitVec 16) : (s.setDstDim w h).ch = s.ch := rfl
@[simp] theorem setDstDim_dstBase (w h : BitVec 16) : (s.setDstDim w h).dstBase = s.dstBase := rfl
@[simp] theorem setDstDim_dstW (w h : BitVec 16) : (s.setDstDim w h).dstW = w := rfl
@[simp] theorem setDstDim_dstH (w h : BitVec 16) : (s.setDstDim w h).dstH = h := rfl
@[simp] theorem setDstDim_cmdLatch (w h : BitVec 16) : (s.setDstDim w h).cmdLatch = s.cmdLatch := rfl
@[simp] theorem setDstDim_latch (w h : BitVec 16) : (s.setDstDim w h).latch = s.latch := rfl
@[simp] theorem setDstDim_mem (w h : BitVec 16) : (s.setDstDim w h).mem = s.mem := rfl
@[simp] theorem setDstDim_faults (w h : BitVec 16) : (s.setDstDim w h).faults = s.faults := rfl
@[simp] theorem setDstDim_resp (w h : BitVec 16) : (s.setDstDim w h).resp = s.resp := rfl
@[simp] theorem setDstDim_host (w h : BitVec 16) : (s.setDstDim w h).host = s.host := rfl
@[simp] theorem setDstDim_sched (w h : BitVec 16) : (s.setDstDim w h).sched = s.sched := rfl
@[simp] theorem setDstDim_platform (w h : BitVec 16) : (s.setDstDim w h).platform = s.platform := rfl
@[simp] theorem setDstDim_ctr (w h : BitVec 16) : (s.setDstDim w h).ctr = s.ctr := rfl

@[simp] theorem setCmdLatch_status (v : Word) : (s.setCmdLatch v).status = s.status := rfl
@[simp] theorem setCmdLatch_irqEn (v : Word) : (s.setCmdLatch v).irqEn = s.irqEn := rfl
@[simp] theorem setCmdLatch_srcBase (v : Word) : (s.setCmdLatch v).srcBase = s.srcBase := rfl
@[simp] theorem setCmdLatch_srcW (v : Word) : (s.setCmdLatch v).srcW = s.srcW := rfl
@[simp] theorem setCmdLatch_srcH (v : Word) : (s.setCmdLatch v).srcH = s.srcH := rfl
@[simp] theorem setCmdLatch_ch (v : Word) : (s.setCmdLatch v).ch = s.ch := rfl
@[simp] theorem setCmdLatch_dstBase (v : Word) : (s.setCmdLatch v).dstBase = s.dstBase := rfl
@[simp] theorem setCmdLatch_dstW (v : Word) : (s.setCmdLatch v).dstW = s.dstW := rfl
@[simp] theorem setCmdLatch_dstH (v : Word) : (s.setCmdLatch v).dstH = s.dstH := rfl
@[simp] theorem setCmdLatch_cmdLatch (v : Word) : (s.setCmdLatch v).cmdLatch = v := rfl
@[simp] theorem setCmdLatch_latch (v : Word) : (s.setCmdLatch v).latch = s.latch := rfl
@[simp] theorem setCmdLatch_mem (v : Word) : (s.setCmdLatch v).mem = s.mem := rfl
@[simp] theorem setCmdLatch_faults (v : Word) : (s.setCmdLatch v).faults = s.faults := rfl
@[simp] theorem setCmdLatch_resp (v : Word) : (s.setCmdLatch v).resp = s.resp := rfl
@[simp] theorem setCmdLatch_host (v : Word) : (s.setCmdLatch v).host = s.host := rfl
@[simp] theorem setCmdLatch_sched (v : Word) : (s.setCmdLatch v).sched = s.sched := rfl
@[simp] theorem setCmdLatch_platform (v : Word) : (s.setCmdLatch v).platform = s.platform := rfl
@[simp] theorem setCmdLatch_ctr (v : Word) : (s.setCmdLatch v).ctr = s.ctr := rfl

@[simp] theorem setLatch_status (v : Option Latch) : (s.setLatch v).status = s.status := rfl
@[simp] theorem setLatch_irqEn (v : Option Latch) : (s.setLatch v).irqEn = s.irqEn := rfl
@[simp] theorem setLatch_srcBase (v : Option Latch) : (s.setLatch v).srcBase = s.srcBase := rfl
@[simp] theorem setLatch_srcW (v : Option Latch) : (s.setLatch v).srcW = s.srcW := rfl
@[simp] theorem setLatch_srcH (v : Option Latch) : (s.setLatch v).srcH = s.srcH := rfl
@[simp] theorem setLatch_ch (v : Option Latch) : (s.setLatch v).ch = s.ch := rfl
@[simp] theorem setLatch_dstBase (v : Option Latch) : (s.setLatch v).dstBase = s.dstBase := rfl
@[simp] theorem setLatch_dstW (v : Option Latch) : (s.setLatch v).dstW = s.dstW := rfl
@[simp] theorem setLatch_dstH (v : Option Latch) : (s.setLatch v).dstH = s.dstH := rfl
@[simp] theorem setLatch_cmdLatch (v : Option Latch) : (s.setLatch v).cmdLatch = s.cmdLatch := rfl
@[simp] theorem setLatch_latch (v : Option Latch) : (s.setLatch v).latch = v := rfl
@[simp] theorem setLatch_mem (v : Option Latch) : (s.setLatch v).mem = s.mem := rfl
@[simp] theorem setLatch_faults (v : Option Latch) : (s.setLatch v).faults = s.faults := rfl
@[simp] theorem setLatch_resp (v : Option Latch) : (s.setLatch v).resp = s.resp := rfl
@[simp] theorem setLatch_host (v : Option Latch) : (s.setLatch v).host = s.host := rfl
@[simp] theorem setLatch_sched (v : Option Latch) : (s.setLatch v).sched = s.sched := rfl
@[simp] theorem setLatch_platform (v : Option Latch) : (s.setLatch v).platform = s.platform := rfl
@[simp] theorem setLatch_ctr (v : Option Latch) : (s.setLatch v).ctr = s.ctr := rfl

@[simp] theorem setMem_status (v : Mem) : (s.setMem v).status = s.status := rfl
@[simp] theorem setMem_irqEn (v : Mem) : (s.setMem v).irqEn = s.irqEn := rfl
@[simp] theorem setMem_srcBase (v : Mem) : (s.setMem v).srcBase = s.srcBase := rfl
@[simp] theorem setMem_srcW (v : Mem) : (s.setMem v).srcW = s.srcW := rfl
@[simp] theorem setMem_srcH (v : Mem) : (s.setMem v).srcH = s.srcH := rfl
@[simp] theorem setMem_ch (v : Mem) : (s.setMem v).ch = s.ch := rfl
@[simp] theorem setMem_dstBase (v : Mem) : (s.setMem v).dstBase = s.dstBase := rfl
@[simp] theorem setMem_dstW (v : Mem) : (s.setMem v).dstW = s.dstW := rfl
@[simp] theorem setMem_dstH (v : Mem) : (s.setMem v).dstH = s.dstH := rfl
@[simp] theorem setMem_cmdLatch (v : Mem) : (s.setMem v).cmdLatch = s.cmdLatch := rfl
@[simp] theorem setMem_latch (v : Mem) : (s.setMem v).latch = s.latch := rfl
@[simp] theorem setMem_mem (v : Mem) : (s.setMem v).mem = v := rfl
@[simp] theorem setMem_faults (v : Mem) : (s.setMem v).faults = s.faults := rfl
@[simp] theorem setMem_resp (v : Mem) : (s.setMem v).resp = s.resp := rfl
@[simp] theorem setMem_host (v : Mem) : (s.setMem v).host = s.host := rfl
@[simp] theorem setMem_sched (v : Mem) : (s.setMem v).sched = s.sched := rfl
@[simp] theorem setMem_platform (v : Mem) : (s.setMem v).platform = s.platform := rfl
@[simp] theorem setMem_ctr (v : Mem) : (s.setMem v).ctr = s.ctr := rfl

@[simp] theorem setFaults_status (v : List Fault) : (s.setFaults v).status = s.status := rfl
@[simp] theorem setFaults_irqEn (v : List Fault) : (s.setFaults v).irqEn = s.irqEn := rfl
@[simp] theorem setFaults_srcBase (v : List Fault) : (s.setFaults v).srcBase = s.srcBase := rfl
@[simp] theorem setFaults_srcW (v : List Fault) : (s.setFaults v).srcW = s.srcW := rfl
@[simp] theorem setFaults_srcH (v : List Fault) : (s.setFaults v).srcH = s.srcH := rfl
@[simp] theorem setFaults_ch (v : List Fault) : (s.setFaults v).ch = s.ch := rfl
@[simp] theorem setFaults_dstBase (v : List Fault) : (s.setFaults v).dstBase = s.dstBase := rfl
@[simp] theorem setFaults_dstW (v : List Fault) : (s.setFaults v).dstW = s.dstW := rfl
@[simp] theorem setFaults_dstH (v : List Fault) : (s.setFaults v).dstH = s.dstH := rfl
@[simp] theorem setFaults_cmdLatch (v : List Fault) : (s.setFaults v).cmdLatch = s.cmdLatch := rfl
@[simp] theorem setFaults_latch (v : List Fault) : (s.setFaults v).latch = s.latch := rfl
@[simp] theorem setFaults_mem (v : List Fault) : (s.setFaults v).mem = s.mem := rfl
@[simp] theorem setFaults_faults (v : List Fault) : (s.setFaults v).faults = v := rfl
@[simp] theorem setFaults_resp (v : List Fault) : (s.setFaults v).resp = s.resp := rfl
@[simp] theorem setFaults_host (v : List Fault) : (s.setFaults v).host = s.host := rfl
@[simp] theorem setFaults_sched (v : List Fault) : (s.setFaults v).sched = s.sched := rfl
@[simp] theorem setFaults_platform (v : List Fault) : (s.setFaults v).platform = s.platform := rfl
@[simp] theorem setFaults_ctr (v : List Fault) : (s.setFaults v).ctr = s.ctr := rfl

@[simp] theorem setResp_status (v : BusResp) : (s.setResp v).status = s.status := rfl
@[simp] theorem setResp_irqEn (v : BusResp) : (s.setResp v).irqEn = s.irqEn := rfl
@[simp] theorem setResp_srcBase (v : BusResp) : (s.setResp v).srcBase = s.srcBase := rfl
@[simp] theorem setResp_srcW (v : BusResp) : (s.setResp v).srcW = s.srcW := rfl
@[simp] theorem setResp_srcH (v : BusResp) : (s.setResp v).srcH = s.srcH := rfl
@[simp] theorem setResp_ch (v : BusResp) : (s.setResp v).ch = s.ch := rfl
@[simp] theorem setResp_dstBase (v : BusResp) : (s.setResp v).dstBase = s.dstBase := rfl
@[simp] theorem setResp_dstW (v : BusResp) : (s.setResp v).dstW = s.dstW := rfl
@[simp] theorem setResp_dstH (v : BusResp) : (s.setResp v).dstH = s.dstH := rfl
@[simp] theorem setResp_cmdLatch (v : BusResp) : (s.setResp v).cmdLatch = s.cmdLatch := rfl
@[simp] theorem setResp_latch (v : BusResp) : (s.setResp v).latch = s.latch := rfl
@[simp] theorem setResp_mem (v : BusResp) : (s.setResp v).mem = s.mem := rfl
@[simp] theorem setResp_faults (v : BusResp) : (s.setResp v).faults = s.faults := rfl
@[simp] theorem setResp_resp (v : BusResp) : (s.setResp v).resp = v := rfl
@[simp] theorem setResp_host (v : BusResp) : (s.setResp v).host = s.host := rfl
@[simp] theorem setResp_sched (v : BusResp) : (s.setResp v).sched = s.sched := rfl
@[simp] theorem setResp_platform (v : BusResp) : (s.setResp v).platform = s.platform := rfl
@[simp] theorem setResp_ctr (v : BusResp) : (s.setResp v).ctr = s.ctr := rfl

@[simp] theorem setHost_status (v : HostCtx) : (s.setHost v).status = s.status := rfl
@[simp] theorem setHost_irqEn (v : HostCtx) : (s.setHost v).irqEn = s.irqEn := rfl
@[simp] theorem setHost_srcBase (v : HostCtx) : (s.setHost v).srcBase = s.srcBase := rfl
@[simp] theorem setHost_srcW (v : HostCtx) : (s.setHost v).srcW = s.srcW := rfl
@[simp] theorem setHost_srcH (v : HostCtx) : (s.setHost v).srcH = s.srcH := rfl
@[simp] theorem setHost_ch (v : HostCtx) : (s.setHost v).ch = s.ch := rfl
@[simp] theorem setHost_dstBase (v : HostCtx) : (s.setHost v).dstBase = s.dstBase := rfl
@[simp] theorem setHost_dstW (v : HostCtx) : (s.setHost v).dstW = s.dstW := rfl
@[simp] theorem setHost_dstH (v : HostCtx) : (s.setHost v).dstH = s.dstH := rfl
@[simp] theorem setHost_cmdLatch (v : HostCtx) : (s.setHost v).cmdLatch = s.cmdLatch := rfl
@[simp] theorem setHost_latch (v : HostCtx) : (s.setHost v).latch = s.latch := rfl
@[simp] theorem setHost_mem (v : HostCtx) : (s.setHost v).mem = s.mem := rfl
@[simp] theorem setHost_faults (v : HostCtx) : (s.setHost v).faults = s.faults := rfl
@[simp] theorem setHost_resp (v : HostCtx) : (s.setHost v).resp = s.resp := rfl
@[simp] theorem setHost_host (v : HostCtx) : (s.setHost v).host = v := rfl
@[simp] theorem setHost_sched (v : HostCtx) : (s.setHost v).sched = s.sched := rfl
@[simp] theorem setHost_platform (v : HostCtx) : (s.setHost v).platform = s.platform := rfl
@[simp] theorem setHost_ctr (v : HostCtx) : (s.setHost v).ctr = s.ctr := rfl

@[simp] theorem setSched_status (v : List Turn) : (s.setSched v).status = s.status := rfl
@[simp] theorem setSched_irqEn (v : List Turn) : (s.setSched v).irqEn = s.irqEn := rfl
@[simp] theorem setSched_srcBase (v : List Turn) : (s.setSched v).srcBase = s.srcBase := rfl
@[simp] theorem setSched_srcW (v : List Turn) : (s.setSched v).srcW = s.srcW := rfl
@[simp] theorem setSched_srcH (v : List Turn) : (s.setSched v).srcH = s.srcH := rfl
@[simp] theorem setSched_ch (v : List Turn) : (s.setSched v).ch = s.ch := rfl
@[simp] theorem setSched_dstBase (v : List Turn) : (s.setSched v).dstBase = s.dstBase := rfl
@[simp] theorem setSched_dstW (v : List Turn) : (s.setSched v).dstW = s.dstW := rfl
@[simp] theorem setSched_dstH (v : List Turn) : (s.setSched v).dstH = s.dstH := rfl
@[simp] theorem setSched_cmdLatch (v : List Turn) : (s.setSched v).cmdLatch = s.cmdLatch := rfl
@[simp] theorem setSched_latch (v : List Turn) : (s.setSched v).latch = s.latch := rfl
@[simp] theorem setSched_mem (v : List Turn) : (s.setSched v).mem = s.mem := rfl
@[simp] theorem setSched_faults (v : List Turn) : (s.setSched v).faults = s.faults := rfl
@[simp] theorem setSched_resp (v : List Turn) : (s.setSched v).resp = s.resp := rfl
@[simp] theorem setSched_host (v : List Turn) : (s.setSched v).host = s.host := rfl
@[simp] theorem setSched_sched (v : List Turn) : (s.setSched v).sched = v := rfl
@[simp] theorem setSched_platform (v : List Turn) : (s.setSched v).platform = s.platform := rfl
@[simp] theorem setSched_ctr (v : List Turn) : (s.setSched v).ctr = s.ctr := rfl

@[simp] theorem setCtr_status (v : Nat) : (s.setCtr v).status = s.status := rfl
@[simp] theorem setCtr_irqEn (v : Nat) : (s.setCtr v).irqEn = s.irqEn := rfl
@[simp] theorem setCtr_srcBase (v : Nat) : (s.setCtr v).srcBase = s.srcBase := rfl
@[simp] theorem setCtr_srcW (v : Nat) : (s.setCtr v).srcW = s.srcW := rfl
@[simp] theorem setCtr_srcH (v : Nat) : (s.setCtr v).srcH = s.srcH := rfl
@[simp] theorem setCtr_ch (v : Nat) : (s.setCtr v).ch = s.ch := rfl
@[simp] theorem setCtr_dstBase (v : Nat) : (s.setCtr v).dstBase = s.dstBase := rfl
@[simp] theorem setCtr_dstW (v : Nat) : (s.setCtr v).dstW = s.dstW := rfl
@[simp] theorem setCtr_dstH (v : Nat) : (s.setCtr v).dstH = s.dstH := rfl
@[simp] theorem setCtr_cmdLatch (v : Nat) : (s.setCtr v).cmdLatch = s.cmdLatch := rfl
@[simp] theorem setCtr_latch (v : Nat) : (s.setCtr v).latch = s.latch := rfl
@[simp] theorem setCtr_mem (v : Nat) : (s.setCtr v).mem = s.mem := rfl
@[simp] theorem setCtr_faults (v : Nat) : (s.setCtr v).faults = s.faults := rfl
@[simp] theorem setCtr_resp (v : Nat) : (s.setCtr v).resp = s.resp := rfl
@[simp] theorem setCtr_host (v : Nat) : (s.setCtr v).host = s.host := rfl
@[simp] theorem setCtr_sched (v : Nat) : (s.setCtr v).sched = s.sched := rfl
@[simp] theorem setCtr_platform (v : Nat) : (s.setCtr v).platform = s.platform := rfl
@[simp] theorem setCtr_ctr (v : Nat) : (s.setCtr v).ctr = v := rfl

end Sys2Proof.Machine.State
end

