-- ==== Sys2Proof/Laws/Command.lean ====
section
/-! SUPPORT. What issuing a command can do: the checks, the two cases of an acceptance, and what a CMD write leaves
alone. -/

namespace Sys2Proof.Machine

@[simp] theorem modeOf_one : modeOf 0x00000001#32 = some .nearest := rfl
@[simp] theorem modeOf_two : modeOf 0x00000002#32 = some .bilinear := rfl

theorem modeOf_illegal {v : Word} (h1 : v ≠ 0x00000001#32) (h2 : v ≠ 0x00000002#32) : modeOf v = none := by
  simp [modeOf, h1, h2]

/-- The checks pass exactly on the records a command may run with. -/
theorem checkOperands_eq_none {limit : Nat} {L : Latch} : checkOperands limit L = none ↔ L.Valid limit := by
  unfold checkOperands Latch.Valid
  constructor
  · intro h
    split at h; · cases h
    split at h; · cases h
    split at h; · cases h
    split at h; · cases h
    split at h; · cases h
    rename_i h1 h2 h3 h4 h5
    rw [not_or] at h1 h3 h4
    refine ⟨⟨h1.1, h1.2, h3.1, h3.2⟩, not_not.mp h2, ?_, ?_, ?_⟩ <;> omega
  · rintro ⟨⟨h1, h2, h3, h4⟩, h5, h6, h7, h8⟩
    rw [if_neg (by simp [h1, h2]), if_neg (not_not.mpr h5), if_neg (by simp [h3, h4]),
      if_neg (by omega), if_neg (by omega)]

theorem validate_ok {v : Word} {s : State} {L : Latch} (h : validate v s = .ok L) :
    ∃ op, modeOf v = some op ∧ L = operands op s ∧ L.Valid (addrLimit s.platform) := by
  unfold validate at h
  split at h
  · cases h
  · next op hop =>
    split at h
    · cases h
    · next hc =>
      cases h
      exact ⟨op, hop, rfl, checkOperands_eq_none.mp hc⟩

theorem validate_of_valid {v : Word} {s : State} {op : Mode} (hop : modeOf v = some op)
    (h : (operands op s).Valid (addrLimit s.platform)) : validate v s = .ok (operands op s) := by
  simp [validate, hop, checkOperands_eq_none.mpr h]

/-- An acceptance that passes the checks loads LATCH and sets BUSY (40_resize.md R100). -/
theorem accept_of_ok {v : Word} {s : State} {L : Latch} (h : validate v s = .ok L) :
    accept v s = { s with
      cmdLatch := v, latch := some L
      status := { s.status with busy := true, done := false, err := false, errCode := 0#4 } } := by
  simp [accept, h, acceptFlags, State.setCmdLatch, State.setStatus, State.setLatch]

/-- A rejection writes STATUS and CMD_LATCH only (40_resize.md R100, 60_exceptions.md R164). -/
theorem accept_of_error {v : Word} {s : State} {e : ErrCause} (h : validate v s = .error e) :
    accept v s = { s with
      cmdLatch := v
      status := { s.status with done := false, err := true, errCode := e.code } } := by
  simp [accept, h, raiseErr, acceptFlags, State.setCmdLatch, State.setStatus]

/-- Everything a CMD write can do (41_register_access.md R141): it is dropped, accepted, or rejected. -/
theorem cmdWrite_cases (v : Word) (s : State) :
    (s.status.busy = true ∧ cmdWrite v s = { s with status := { s.status with dropped := true } })
    ∨ (s.status.busy = false ∧ ∃ L, validate v s = .ok L ∧ cmdWrite v s = { s with
        cmdLatch := v, latch := some L
        status := { s.status with busy := true, done := false, err := false, errCode := 0#4 } })
    ∨ (s.status.busy = false ∧ ∃ e, validate v s = .error e ∧ cmdWrite v s = { s with
        cmdLatch := v
        status := { s.status with done := false, err := true, errCode := e.code } }) := by
  unfold cmdWrite
  cases hb : s.status.busy
  · cases hv : validate v s with
    | ok L => exact .inr (.inl ⟨rfl, L, rfl, by simpa using accept_of_ok hv⟩)
    | error e => exact .inr (.inr ⟨rfl, e, rfl, by simpa using accept_of_error hv⟩)
  · exact .inl ⟨rfl, by simp [dropCommand, State.setStatus, hb]⟩

/-- What a CMD write leaves alone, whatever becomes of it. -/
theorem cmdWrite_frame (v : Word) (s : State) :
    cmdWrite v s = { s with
      cmdLatch := (cmdWrite v s).cmdLatch, latch := (cmdWrite v s).latch, status := (cmdWrite v s).status } := by
  rcases cmdWrite_cases v s with ⟨_, h⟩ | ⟨_, _, _, h⟩ | ⟨_, _, _, h⟩ <;> rw [h]

theorem ErrCause.code_ne_zero (e : ErrCause) : e.code ≠ 0#4 := by cases e <;> decide

theorem ErrCause.code_le_seven (e : ErrCause) : e.code.toNat ≤ 7 := by cases e <;> decide

theorem addrField_lt (aw : Nat) (d : Word) : (addrField aw d).toNat < 2 ^ aw := by
  simp only [addrField, BitVec.toNat_ofNat]
  exact Nat.lt_of_le_of_lt (Nat.mod_le _ _) (Nat.mod_lt _ (Nat.two_pow_pos aw))

end Sys2Proof.Machine
end

