-- ==== Sys2Proof/Laws/Encoding.lean ====
section
/-! SUPPORT. The laws of the register map, the encoder and the decoder. -/

namespace Sys2Proof.Machine

/-- A register's offset finds it in the map (10_state.md R22): no two registers share one. -/
@[simp] theorem regAt_off (r : Reg) : regAt r.off = some r := by cases r <;> decide

@[simp] theorem aligned_readOf (r : Reg) : (readOf r).aligned = true := by cases r <;> decide

@[simp] theorem aligned_writeOf (r : Reg) (d : Word) : (writeOf r d).aligned = true := by
  cases r <;> simp [Access.aligned, writeOf, Reg.off]

@[simp] theorem readOf_off (r : Reg) : (readOf r).off = r.off := rfl

@[simp] theorem writeOf_off (r : Reg) (d : Word) : (writeOf r d).off = r.off := rfl

/-- An aligned word access is a 32-bit access at an offset that is a multiple of 4 (20_memory.md R64). -/
theorem aligned_iff (a : Access) : a.aligned = true ↔ a.size = .word ∧ a.off.toNat % 4 = 0 := by
  simp only [Access.aligned, Bool.and_eq_true, beq_iff_eq]
  refine and_congr_right fun _ => ⟨fun h => by simpa using congrArg BitVec.toNat h, fun h => ?_⟩
  exact BitVec.eq_of_toNat_eq (by simpa using h)

theorem regAt_some {off : BitVec 12} {r : Reg} (h : regAt off = some r) : r.off = off := by
  simpa [regAt] using List.find?_some h

/-- No register stands at the reserved offsets (10_state.md R37). -/
theorem regAt_reserved {off : BitVec 12} (h : 0x028 ≤ off.toNat) : regAt off = none := by
  simp only [regAt, List.find?_eq_none, beq_iff_eq]
  rintro r - rfl
  cases r <;> simp [Reg.off] at h

/-- Everything the decoder can answer. -/
theorem decode_instr {a : Access} {i : Instr} (h : decode a = .instr i) :
    ∃ r : Reg, a.size = .word ∧ a.off = r.off
      ∧ ((a.dir = .read ∧ i = decodeRead r) ∨ (a.dir = .write ∧ i = decodeWrite r a.data)) := by
  unfold decode at h
  split at h
  · next ha =>
    have hs := ((aligned_iff a).mp ha).1
    split at h
    · cases h
    · next r hr =>
      have ho := (regAt_some hr).symm
      split at h
      · next hd => cases h; exact ⟨r, hs, ho, .inl ⟨hd, rfl⟩⟩
      · next hd => cases h; exact ⟨r, hs, ho, .inr ⟨hd, rfl⟩⟩
  · cases h

theorem decode_readOf (r : Reg) : decode (readOf r) = .instr (decodeRead r) := by
  simp [decode]; simp [readOf]

theorem decode_writeOf (r : Reg) (d : Word) : decode (writeOf r d) = .instr (decodeWrite r d) := by
  simp [decode]; simp [writeOf]

end Sys2Proof.Machine
end

