-- ==== Sys2Proof/Laws/Memory.lean ====
section
/-! SUPPORT. The laws of sample memory: what a read gives after each operation, and that each keeps the canonical
form and the address space. -/

namespace Sys2Proof.Machine

/-! Reads after writes. -/

@[simp] theorem readByte_nil (a : Nat) : readByte [] a = none := rfl

theorem readByte_writeByte (m : Mem) (a b : Nat) (v : Byte) :
    readByte (writeByte m a v) b = if a = b then some v else readByte m b := by
  induction m with
  | nil => simp [writeByte, readByte]
  | cons c r ih =>
    obtain ⟨k, w⟩ := c
    simp only [writeByte]
    split
    · simp [readByte]
    · split
      · subst_vars
        simp only [readByte]
        split <;> simp_all
      · simp only [readByte, ih]
        split <;> split <;> simp_all

theorem readByte_append (m n : Mem) (a : Nat) :
    readByte (m ++ n) a = (readByte m a).or (readByte n a) := by
  induction m with
  | nil => simp
  | cons c r ih =>
    obtain ⟨k, w⟩ := c
    simp only [List.cons_append, readByte]
    split <;> simp [ih]

theorem readByte_filter (m : Mem) (p : Nat → Bool) (a : Nat) :
    readByte (m.filter (fun c => p c.1)) a = if p a then readByte m a else none := by
  induction m with
  | nil => simp
  | cons c r ih =>
    obtain ⟨k, w⟩ := c
    by_cases hk : p k = true
    · rw [List.filter_cons_of_pos (by simpa using hk)]
      simp only [readByte, ih]
      by_cases hka : k = a
      · subst hka; simp [hk]
      · simp [hka]
    · rw [List.filter_cons_of_neg (by simpa using hk), ih]
      simp only [readByte]
      by_cases hka : k = a
      · subst hka; simp [hk]
      · simp [hka]

theorem readByte_cellsFrom (b : Nat) (bs : List Byte) (a : Nat) :
    readByte (cellsFrom b bs) a = if b ≤ a then bs[a - b]? else none := by
  induction bs generalizing b with
  | nil => simp [cellsFrom]
  | cons v r ih =>
    simp only [cellsFrom, readByte, ih]
    by_cases h : b = a
    · subst h; simp
    · by_cases hle : b ≤ a
      · have h1 : b + 1 ≤ a := by omega
        have h2 : a - b = (a - (b + 1)) + 1 := by omega
        simp [h, hle, h1, h2]
      · have h1 : ¬ b + 1 ≤ a := by omega
        simp [h, hle, h1]

theorem readByte_fillRange (m : Mem) (b : Nat) (bs : List Byte) (a : Nat) :
    readByte (fillRange m b bs) a
      = if b ≤ a ∧ a < b + bs.length then bs[a - b]? else readByte m a := by
  have h1 := readByte_filter m (fun x => decide (x < b)) a
  have h2 := readByte_filter m (fun x => decide (b + bs.length ≤ x)) a
  simp only [fillRange, readByte_append, readByte_cellsFrom, h1, h2]
  by_cases ha : a < b
  · have h3 : ¬ b ≤ a := by omega
    have h4 : ¬ b + bs.length ≤ a := by omega
    simp [ha, h3, h4]
  · have h3 : b ≤ a := by omega
    by_cases hb : a < b + bs.length
    · have h4 : ¬ b + bs.length ≤ a := by omega
      simp [ha, h3, hb, h4]
    · have h4 : b + bs.length ≤ a := by omega
      have h5 : bs[a - b]? = none := by simp; omega
      simp [ha, h3, hb, h4, h5]

theorem readByte_undefRange (m : Mem) (b n a : Nat) :
    readByte (undefRange m b n) a = if b ≤ a ∧ a < b + n then none else readByte m a := by
  have h := readByte_filter m (fun x => decide (x < b) || decide (b + n ≤ x)) a
  simp only [undefRange, h]
  by_cases ha : b ≤ a ∧ a < b + n
  · have h1 : ¬ a < b := by omega
    have h2 : ¬ b + n ≤ a := by omega
    simp [ha, h1, h2]
  · have h1 : a < b ∨ b + n ≤ a := by omega
    simp [ha, h1]

/-! Every operation keeps the canonical form and the address space. -/

theorem mem_writeByte {m : Mem} {a : Nat} {v : Byte} {c : Host.Cell} (h : c ∈ writeByte m a v) :
    c = (a, v) ∨ c ∈ m := by
  induction m with
  | nil => simpa [writeByte] using h
  | cons d r ih =>
    simp only [writeByte] at h
    split at h
    · simpa using h
    · split at h
      · rcases List.mem_cons.mp h with h | h
        · exact .inl h
        · exact .inr (List.mem_cons_of_mem _ h)
      · rcases List.mem_cons.mp h with h | h
        · exact .inr (by simp [h])
        · exact (ih h).imp id (List.mem_cons_of_mem _)

theorem writeByte_wf {m : Mem} (h : m.wf) (a : Nat) (v : Byte) : (writeByte m a v).wf := by
  induction m with
  | nil => simp [writeByte, Mem.wf]
  | cons d r ih =>
    obtain ⟨k, w⟩ := d
    have hr : ∀ c ∈ r, k < c.1 := (List.pairwise_cons.mp h).1
    have hw : Mem.wf r := (List.pairwise_cons.mp h).2
    simp only [writeByte]
    split
    · refine List.pairwise_cons.mpr ⟨fun c hc => ?_, h⟩
      rcases List.mem_cons.mp hc with rfl | hc
      · assumption
      · have := hr c hc; show a < c.1; omega
    · split
      · subst_vars
        exact List.pairwise_cons.mpr ⟨hr, hw⟩
      · refine List.pairwise_cons.mpr ⟨fun c hc => ?_, ih hw⟩
        rcases mem_writeByte hc with rfl | hc
        · show k < a; omega
        · exact hr c hc

theorem mem_cellsFrom {b : Nat} {bs : List Byte} {c : Host.Cell} (h : c ∈ cellsFrom b bs) :
    b ≤ c.1 ∧ c.1 < b + bs.length := by
  induction bs generalizing b with
  | nil => simp [cellsFrom] at h
  | cons v r ih =>
    rcases List.mem_cons.mp h with rfl | h
    · simp
    · have := ih h
      simp only [List.length_cons]
      omega

theorem cellsFrom_wf (b : Nat) (bs : List Byte) : (cellsFrom b bs).wf := by
  induction bs generalizing b with
  | nil => exact List.Pairwise.nil
  | cons v r ih =>
    refine List.pairwise_cons.mpr ⟨fun c hc => ?_, ih (b + 1)⟩
    have := mem_cellsFrom hc
    show b < c.1
    omega

theorem mem_fillRange {m : Mem} {b : Nat} {bs : List Byte} {c : Host.Cell} (h : c ∈ fillRange m b bs) :
    c ∈ m ∨ c.1 < b + bs.length := by
  simp only [fillRange, List.mem_append, List.mem_filter] at h
  rcases h with (h | h) | h
  · exact .inl h.1
  · exact .inr (mem_cellsFrom h).2
  · exact .inl h.1

theorem fillRange_wf {m : Mem} (h : m.wf) (b : Nat) (bs : List Byte) : (fillRange m b bs).wf := by
  refine List.pairwise_append.mpr ⟨List.pairwise_append.mpr ⟨h.filter _, cellsFrom_wf b bs, ?_⟩, h.filter _, ?_⟩
  · intro x hx y hy
    have := (List.mem_filter.mp hx).2
    have := mem_cellsFrom hy
    simp only [decide_eq_true_eq] at *
    omega
  · intro x hx y hy
    have hy2 := (List.mem_filter.mp hy).2
    simp only [decide_eq_true_eq] at hy2
    rcases List.mem_append.mp hx with hx | hx
    · have hx2 := (List.mem_filter.mp hx).2
      simp only [decide_eq_true_eq] at hx2
      omega
    · have := mem_cellsFrom hx
      omega

theorem undefRange_wf {m : Mem} (h : m.wf) (b n : Nat) : (undefRange m b n).wf := h.filter _

theorem mem_undefRange {m : Mem} {b n : Nat} {c : Host.Cell} (h : c ∈ undefRange m b n) : c ∈ m :=
  (List.mem_filter.mp h).1

theorem reset_mem_wf : State.reset.mem.wf := List.Pairwise.nil

theorem writeByte_inSpace {limit : Nat} {m : Mem} (h : m.InSpace limit) {a : Nat} (ha : a < limit) (v : Byte) :
    Mem.InSpace limit (writeByte m a v) := by
  refine ⟨writeByte_wf h.1 a v, fun c hc => ?_⟩
  rcases mem_writeByte hc with rfl | hc
  · exact ha
  · exact h.2 c hc

theorem fillRange_inSpace {limit : Nat} {m : Mem} (h : m.InSpace limit) {b : Nat} {bs : List Byte}
    (hb : b + bs.length ≤ limit) : Mem.InSpace limit (fillRange m b bs) := by
  refine ⟨fillRange_wf h.1 b bs, fun c hc => ?_⟩
  rcases mem_fillRange hc with hc | hc
  · exact h.2 c hc
  · omega

theorem undefRange_inSpace {limit : Nat} {m : Mem} (h : m.InSpace limit) (b n : Nat) :
    Mem.InSpace limit (undefRange m b n) :=
  ⟨undefRange_wf h.1 b n, fun c hc => h.2 c (mem_undefRange hc)⟩

end Sys2Proof.Machine
end

