-- ==== Sys2Proof/Laws/Engine.lean ====
section
/-! SUPPORT. The laws of the engine's step: the numbering of samples, the neighbours' indexes, the bytes a command
writes, and everything a completion can do. -/

namespace Sys2Proof.Machine

/-! Samples and their addresses (00_scope.md R12). -/

theorem Buffer.coord_index {b : Buffer} {x y c : Nat} (hx : x < b.w) (hc : c < b.c) :
    b.coord ((y * b.w + x) * b.c + c) = { dx := x, dy := y, c := c } := by
  have h1 : ((y * b.w + x) * b.c + c) / b.c = y * b.w + x := by
    rw [Nat.add_comm, Nat.add_mul_div_right _ _ (by omega), Nat.div_eq_of_lt hc, Nat.zero_add]
  have h2 : (y * b.w + x) % b.w = x := by
    rw [Nat.add_comm, Nat.add_mul_mod_self_right, Nat.mod_eq_of_lt hx]
  have h3 : (y * b.w + x) / b.w = y := by
    rw [Nat.add_comm, Nat.add_mul_div_right _ _ (by omega), Nat.div_eq_of_lt hx, Nat.zero_add]
  have h4 : ((y * b.w + x) * b.c + c) % b.c = c := by
    rw [Nat.add_comm, Nat.add_mul_mod_self_right, Nat.mod_eq_of_lt hc]
  simp [Buffer.coord, h1, h2, h3, h4]

theorem Buffer.addr_coord (b : Buffer) (k : Nat) :
    b.addr (b.coord k).dx (b.coord k).dy (b.coord k).c = b.base + k := by
  simp only [Buffer.addr, Buffer.coord]
  have h1 : k / b.c / b.w * b.w + k / b.c % b.w = k / b.c := Nat.div_add_mod' _ _
  have h2 : k / b.c * b.c + k % b.c = k := Nat.div_add_mod' _ _
  rw [h1]; omega

theorem index_lt_size {w h n x y c : Nat} (hx : x < w) (hy : y < h) (hc : c < n) :
    (y * w + x) * n + c < w * h * n := by
  have h1 : y * w + x + 1 ≤ w * h := by
    calc y * w + x + 1 ≤ y * w + w := by omega
      _ = (y + 1) * w := by ring
      _ ≤ h * w := Nat.mul_le_mul_right w hy
      _ = w * h := Nat.mul_comm _ _
  calc (y * w + x) * n + c < (y * w + x) * n + n := by omega
    _ = (y * w + x + 1) * n := by ring
    _ ≤ w * h * n := Nat.mul_le_mul_right n h1

/-- Every sample of a buffer lies in it. -/
theorem Buffer.addr_bounds {b : Buffer} {x y c : Nat} (hx : x < b.w) (hy : y < b.h) (hc : c < b.c) :
    b.base ≤ b.addr x y c ∧ b.addr x y c < b.stop := by
  have := index_lt_size hx hy hc
  simp only [Buffer.addr, Buffer.stop, Buffer.size]
  omega

theorem Buffer.coord_bounds {b : Buffer} {k : Nat} (hw : 0 < b.w) (hc : 0 < b.c) (hk : k < b.size) :
    (b.coord k).dx < b.w ∧ (b.coord k).dy < b.h ∧ (b.coord k).c < b.c := by
  refine ⟨Nat.mod_lt _ hw, ?_, Nat.mod_lt _ hc⟩
  simp only [Buffer.coord, Buffer.size] at *
  rw [Nat.div_lt_iff_lt_mul hw, Nat.div_lt_iff_lt_mul hc]
  calc k < b.w * b.h * b.c := hk
    _ = b.h * b.w * b.c := by ring

/-! Neighbour indexes (40_resize.md R106, R107, R112). -/

theorem nearestIndex_lt {d s dd : Nat} (hd : d < dd) (hs : 0 < s) : nearestIndex d s dd < s := by
  unfold nearestIndex
  rw [Nat.div_lt_iff_lt_mul (by omega), Nat.mul_comm s dd]
  exact Nat.mul_lt_mul_of_pos_right hd hs

theorem axisScale_pos {d s dd : Nat} (hd : d < dd) : 0 < (axisScale d s dd).2 := by
  unfold axisScale; split <;> simp; omega

theorem axis_r_lt {d s dd : Nat} (hd : d < dd) : (axis d s dd).r < (axis d s dd).a :=
  Nat.mod_lt _ (axisScale_pos hd)

theorem axis_i0_lt {d s dd : Nat} (hd : d < dd) (hs : 0 < s) : (axis d s dd).i0 < s := by
  have h : (axisScale d s dd).1 ≤ (s - 1) * (axisScale d s dd).2 := by
    unfold axisScale; split
    · simp
    · simp only
      rw [Nat.mul_comm]
      exact Nat.mul_le_mul_left _ (by omega)
  have := Nat.div_le_of_le_mul (m := (axisScale d s dd).1) (k := (axisScale d s dd).2) (n := s - 1)
    (by rw [Nat.mul_comm]; exact h)
  simp only [axis]
  omega

theorem axis_i1_lt {d s dd : Nat} (hs : 0 < s) : (axis d s dd).i1 < s := by
  simp only [axis]; omega

/-! The bytes a command writes. -/

theorem results_length {m : Mem} {L : Latch} {ks : List Nat} {bs : List Byte} (h : results m L ks = some bs) :
    bs.length = ks.length := by
  induction ks generalizing bs with
  | nil => simp [results] at h; simp [← h]
  | cons k r ih =>
    simp only [results] at h
    split at h
    · next hv hr => cases h; simp [ih hr]
    · cases h

theorem results_get {m : Mem} {L : Latch} {ks : List Nat} {bs : List Byte} (h : results m L ks = some bs)
    {i k : Nat} (hk : ks[i]? = some k) : bs[i]? = sampleOf m (plan L k) := by
  induction ks generalizing bs i with
  | nil => simp at hk
  | cons k0 r ih =>
    simp only [results] at h
    split at h
    · next hv hr =>
      cases h
      cases i with
      | zero => simp at hk; subst hk; simp [hv]
      | succ j => simp only [List.getElem?_cons_succ] at *; exact ih hr hk
    · cases h

theorem results_isSome {m : Mem} {L : Latch} {ks : List Nat}
    (h : ∀ k ∈ ks, (sampleOf m (plan L k)).isSome = true) : (results m L ks).isSome = true := by
  induction ks with
  | nil => rfl
  | cons k r ih =>
    obtain ⟨v, hv⟩ := Option.isSome_iff_exists.mp (h k (List.mem_cons_self ..))
    obtain ⟨vs, hvs⟩ := Option.isSome_iff_exists.mp (ih fun j hj => h j (List.mem_cons_of_mem _ hj))
    simp [results, hv, hvs]

/-- A destination byte after the engine wrote its bytes (20_memory.md R66). -/
theorem readByte_destination {m : Mem} {L : Latch} {bs : List Byte}
    (h : results m L (sampleNumbers L) = some bs) {k : Nat} (hk : k < L.dst.size) :
    readByte (fillRange m L.dst.base bs) (L.dst.base + k) = sampleOf m (plan L k) := by
  have hl : bs.length = L.dst.size := by simpa [sampleNumbers] using results_length h
  rw [readByte_fillRange, if_pos ⟨by omega, by omega⟩, Nat.add_sub_cancel_left]
  exact results_get h (by simp [sampleNumbers, hk])

theorem sampleOf_isSome {m : Mem} {p : SamplePlan}
    (h : ∀ t ∈ p.taps, t.weight ≠ 0 → (readByte m t.addr).isSome = true) : (sampleOf m p).isSome = true := by
  have hsum : ∀ ts : List Tap, (∀ t ∈ ts, t.weight ≠ 0 → (readByte m t.addr).isSome = true) →
      (tapSum m ts).isSome = true := by
    intro ts
    induction ts with
    | nil => intro _; rfl
    | cons t r ih =>
      intro h
      have hr := ih fun u hu => h u (List.mem_cons_of_mem _ hu)
      simp only [tapSum]
      split
      · exact hr
      · next hw =>
        obtain ⟨v, hv⟩ := Option.isSome_iff_exists.mp (h t (List.mem_cons_self ..) hw)
        obtain ⟨n, hn⟩ := Option.isSome_iff_exists.mp hr
        simp [hv, hn]
  obtain ⟨n, hn⟩ := Option.isSome_iff_exists.mp (hsum p.taps h)
  simp [sampleOf, hn]

/-! The completion step. -/

/-- Everything the work of a latched command and its completion can do (40_resize.md R104). -/
theorem runCommand_cases (L : Latch) (s : State) :
    (accessRefused s L = true ∧ runCommand L s = endWithBusError L s)
    ∨ (accessRefused s L = false ∧ readsUndefined s L = false ∧ ∃ bs,
        results s.mem L (sampleNumbers L) = some bs ∧ runCommand L s = endWithDone L bs s)
    ∨ (accessRefused s L = false ∧ runCommand L s = recordFault .uninitRead s) := by
  unfold runCommand
  cases accessRefused s L
  · cases readsUndefined s L
    · cases hr : results s.mem L (sampleNumbers L) with
      | some bs => exact .inr (.inl ⟨rfl, rfl, bs, rfl, rfl⟩)
      | none => exact .inr (.inr ⟨rfl, rfl⟩)
    · exact .inr (.inr ⟨rfl, rfl⟩)
  · exact .inl ⟨rfl, rfl⟩

/-- Everything the engine's step can do. -/
theorem engineStep_cases (s : State) :
    (s.latch = none ∧ engineStep s = s)
    ∨ ∃ L, s.latch = some L ∧
      (engineStep s = endWithBusError L s
        ∨ (∃ bs, results s.mem L (sampleNumbers L) = some bs ∧ engineStep s = endWithDone L bs s)
        ∨ engineStep s = recordFault .uninitRead s) := by
  unfold engineStep
  cases hl : s.latch with
  | none => exact .inl ⟨rfl, rfl⟩
  | some L =>
    refine .inr ⟨L, rfl, ?_⟩
    rcases runCommand_cases L s with ⟨_, h⟩ | ⟨_, _, bs, hb, h⟩ | ⟨_, h⟩
    · exact .inl h
    · exact .inr (.inl ⟨bs, hb, h⟩)
    · exact .inr (.inr h)

end Sys2Proof.Machine
end

