-- ==== Sys2Proof/Laws/HostAgent.lean ====
section
/-! SUPPORT. The laws of the host agent's operations and of the step. -/

namespace Sys2Proof.Machine

/-! What the host's own bookkeeping leaves alone. -/

theorem advance_eq (s : State) : advance s = { s with host := (advance s).host } := rfl

theorem loadTemp_eq (t : Option Temp) (s : State) : loadTemp t s = { s with host := (loadTemp t s).host } := by
  unfold loadTemp
  split <;> rfl

@[simp] theorem onNext_next (s : State) (f : State → State) : onNext (.next s) f = .next (f s) := rfl

theorem onNext_eq_next {o : Host.Outcome State Fault Refusal} {f : State → State} {t : State}
    (h : onNext o f = .next t) : ∃ u, o = .next u ∧ t = f u := by
  cases o with
  | next u => exact ⟨u, rfl, by simpa [onNext] using h.symm⟩
  | fault r => simp [onNext] at h
  | refused r => simp [onNext] at h

/-- Everything `WRMEM` can do: it changes sample memory inside the address space and records at most one fault, which
is the fault of one of its bytes. -/
theorem hostWrite_cases (a : Nat) (bs : List Byte) (s : State) :
    ∃ m, (s.mem.InSpace (addrLimit s.platform) → Mem.InSpace (addrLimit s.platform) m) ∧
      (hostWrite a bs s = s.setMem m ∨ ∃ f, hostWrite a bs s = recordFault f (s.setMem m)) := by
  induction bs generalizing a s with
  | nil => exact ⟨s.mem, id, .inl rfl⟩
  | cons v r ih =>
    simp only [hostWrite]
    split
    · next f _ => exact ⟨s.mem, id, .inr ⟨f, rfl⟩⟩
    · next hf =>
      have ha : a < addrLimit s.platform := by
        by_contra hge
        simp [hostAccessFault, Nat.le_of_not_lt hge] at hf
      obtain ⟨m, hm, h⟩ := ih (a + 1) (s.setMem (writeByte s.mem a v))
      exact ⟨m, fun h0 => hm (writeByte_inSpace h0 ha v), h⟩

theorem hostAccessFault_setMem (s : State) (m : Mem) (d : Dir) (a : Nat) :
    hostAccessFault (s.setMem m) d a = hostAccessFault s d a := rfl

/-- `WRMEM` stores its leading bytes that raise no model fault, and goes on with the rest. -/
theorem hostWrite_append {pre : List Byte} (r : List Byte) {a : Nat} {s : State}
    (h : ∀ k, k < pre.length → hostAccessFault s .write (a + k) = none) :
    ∃ m, hostWrite a (pre ++ r) s = hostWrite (a + pre.length) r (s.setMem m)
      ∧ (∀ k, k < pre.length → readByte m (a + k) = pre[k]?)
      ∧ (∀ c, c < a ∨ a + pre.length ≤ c → readByte m c = readByte s.mem c)
      ∧ (pre = [] → m = s.mem) := by
  induction pre generalizing a s with
  | nil => exact ⟨s.mem, rfl, by simp, fun _ _ => rfl, fun _ => rfl⟩
  | cons v p ih =>
    have h0 : hostAccessFault s .write a = none := h 0 (by simp)
    obtain ⟨m, hm, hin, hout, -⟩ := ih (a := a + 1) (s := s.setMem (writeByte s.mem a v)) fun k hk => by
      rw [hostAccessFault_setMem, Nat.add_assoc, Nat.add_comm 1]
      exact h (k + 1) (by simpa using hk)
    have hlen : a + 1 + p.length = a + (v :: p).length := by rw [List.length_cons]; omega
    refine ⟨m, ?_, fun k hk => ?_, fun c hc => ?_, fun hn => by cases hn⟩
    · rw [List.cons_append, hostWrite, h0, hm, hlen]
      rfl
    · cases k with
      | zero => rw [Nat.add_zero, hout a (.inl (by omega)), State.setMem_mem, readByte_writeByte]; simp
      | succ k =>
        rw [← Nat.add_assoc, Nat.add_right_comm, hin k (by simpa using hk)]
        rfl
    · rw [← hlen] at hc
      rw [hout c (by omega), State.setMem_mem, readByte_writeByte, if_neg (by omega)]

/-- A host write of a byte of sample memory off the window and off both regions raises no model fault. -/
theorem hostAccessFault_write_none {s : State} {a : Nat} (ha : a < addrLimit s.platform)
    (hw : inWindow s.platform a = false)
    (hr : ∀ L, s.latch = some L → L.src.contains a = false ∧ L.dst.contains a = false) :
    hostAccessFault s .write a = none := by
  have hb : breaksRegionRule s .write a = false := by
    unfold breaksRegionRule
    cases hL : s.latch with
    | none => rfl
    | some L => simp [hr L hL]
  simp [hostAccessFault, Nat.not_le.mpr ha, hw, hb]

/-- A host read of a byte of sample memory off the window and off the destination raises no model fault. -/
theorem hostAccessFault_read_none {s : State} {a : Nat} (ha : a < addrLimit s.platform)
    (hw : inWindow s.platform a = false) (hr : ∀ L, s.latch = some L → L.dst.contains a = false) :
    hostAccessFault s .read a = none := by
  have hb : breaksRegionRule s .read a = false := by
    unfold breaksRegionRule
    cases hL : s.latch with
    | none => rfl
    | some L => simp [hr L hL]
  simp [hostAccessFault, Nat.not_le.mpr ha, hw, hb]

/-- A byte of `WRMEM` that raises a model fault is the last thing it does. -/
theorem hostWrite_fault {v : Byte} {r : List Byte} {a : Nat} {s : State} {f : Fault}
    (h : hostAccessFault s .write a = some f) : hostWrite a (v :: r) s = recordFault f s := by
  rw [hostWrite, h]

/-- Everything `RDMEM` can do: it changes the host only, or records one fault. -/
theorem hostRead_cases (t : Temp) (a : Nat) (s : State) :
    (∃ v, hostAccessFault s .read a = none ∧ readByte s.mem a = some v
      ∧ hostRead t a s = setTemp t (BitVec.setWidth 32 v) s)
    ∨ ∃ f, hostRead t a s = recordFault f s := by
  unfold hostRead
  split
  · next f _ => exact .inr ⟨f, rfl⟩
  · next hf =>
    split
    · next v hv => exact .inl ⟨v, hf, hv, rfl⟩
    · exact .inr ⟨_, rfl⟩

/-- Everything a register-window access of the host can do. -/
theorem hostBus_cases {t : Option Temp} {a : Access} {s u : State} (h : hostBus t a s = .next u) :
    (∃ i v, decode a = .instr i ∧ exec i s = .next v ∧ u = advance (loadTemp t v))
    ∨ (decode a = .reservedOffset ∧ u = advance (loadTemp t (reservedAccess a.dir s)))
    ∨ (decode a = .accessSize ∧ u = advance (recordFault .regAccessSize (respondError s))) := by
  unfold hostBus at h
  split at h
  · next i hi =>
    obtain ⟨v, hv, rfl⟩ := onNext_eq_next h
    exact .inl ⟨i, v, hi, hv, rfl⟩
  · next hd => cases h; exact .inr (.inl ⟨hd, rfl⟩)
  · next hd => cases h; exact .inr (.inr ⟨hd, rfl⟩)

/-- A label stands where it is defined first. -/
theorem labelAt_of_first {l : Label} {prog : List Stmt} {i : Nat} (h : prog[i]? = some (.label l))
    (hj : ∀ j, j < i → prog[j]? ≠ some (.label l)) : labelAt l prog = some i := by
  obtain ⟨hi, hv⟩ := List.getElem?_eq_some_iff.mp h
  refine List.findIdx?_eq_some_iff_getElem.mpr ⟨hi, by simp [hv], fun j hlt => ?_⟩
  have := hj j hlt
  rw [List.getElem?_eq_getElem (by omega)] at this
  simpa using this

theorem labelAt_of_not_mem {l : Label} {prog : List Stmt} (h : Stmt.label l ∉ prog) : labelAt l prog = none := by
  refine List.findIdx?_eq_none_iff.mpr fun x hx => ?_
  simp only [beq_eq_false_iff_ne]
  rintro rfl
  exact h hx

theorem jump_cases {l : Label} {s u : State} (h : jump l s = .next u) :
    ∃ i, labelAt l s.host.prog = some i ∧ u = s.setHost { s.host with pc := i } := by
  unfold jump at h
  split at h
  · next i hi => cases h; exact ⟨i, hi, rfl⟩
  · cases h

/-- A host statement that is no register access changes only the host, sample memory and the fault list. -/
theorem hostStmt_frame {x : Stmt} {s u : State} (hx : ∀ t a, x ≠ .bus t a) (h : hostStmt x s = .next u) :
    u = { s with host := u.host, mem := u.mem, faults := u.faults } := by
  cases x with
  | bus t a => exact absurd rfl (hx t a)
  | wrmem a bs =>
    simp only [hostStmt, Host.Outcome.next.injEq] at h
    obtain ⟨m, _, hw | ⟨f, hw⟩⟩ := hostWrite_cases a.toNat bs s <;> rw [hw] at h <;> subst h <;> rfl
  | rdmem t a =>
    simp only [hostStmt, Host.Outcome.next.injEq] at h
    rcases hostRead_cases t a.toNat s with ⟨v, _, _, hr⟩ | ⟨f, hr⟩ <;> rw [hr] at h <;> subst h <;> rfl
  | bset t b l =>
    simp only [hostStmt] at h
    split at h
    · obtain ⟨i, _, rfl⟩ := jump_cases h; rfl
    · cases h; rfl
  | bclr t b l =>
    simp only [hostStmt] at h
    split at h
    · cases h; rfl
    · obtain ⟨i, _, rfl⟩ := jump_cases h; rfl
  | fence => simp only [hostStmt, Host.Outcome.next.injEq] at h; subst h; rfl
  | halt => simp only [hostStmt, Host.Outcome.next.injEq] at h; subst h; rfl
  | label l => simp only [hostStmt, Host.Outcome.next.injEq] at h; subst h; rfl

/-! The step. -/

@[simp] theorem popTurn_sched (s : State) : (popTurn s).sched = s.sched.tail := rfl

theorem popTurn_eq (s : State) : popTurn s = { s with sched := s.sched.tail } := rfl

/-- A step that answers a next state has no fault recorded and is the move of one agent. -/
theorem step_cases {s t : State} (h : step s = .next t) :
    s.faults = [] ∧ perform (nextMove s) (popTurn s) = .next t := by
  unfold step at h
  split at h
  · cases h
  · next hf => exact ⟨hf, h⟩

theorem step_of_safe {s : State} (h : s.faults = []) : step s = perform (nextMove s) (popTurn s) := by
  simp [step, h]

/-- The engine moves only while BUSY = 1. -/
theorem nextMove_engine {s : State} (h : nextMove s = .engine) : s.status.busy = true := by
  unfold nextMove engineFirst hostFirst at h
  split at h
  · cases h
  · split at h
    · assumption
    · split at h <;> cases h
  · split at h
    · cases h
    · split at h
      · assumption
      · cases h
  · split at h
    · assumption
    · split at h <;> cases h

/-- With the schedule used up, the engine moves whenever BUSY = 1. -/
theorem nextMove_busy {s : State} (h : s.status.busy = true) (hs : s.sched = []) : nextMove s = .engine := by
  simp [nextMove, hs, engineFirst, h]

end Sys2Proof.Machine
end

