-- ==== Sys2Proof/Laws/PerInstr.lean ====
section
/-! SUPPORT. Per instruction: its encoding is an access the window takes, an aligned word at a register's offset. -/

namespace Sys2Proof.Laws.EncodesRegisterAccess

open Machine

/-- The encoding is an aligned word access at the offset of a register (20_memory.md R64, 10_state.md R22). -/
def Statement (i : Instr) : Prop :=
  (encode i).aligned = true ∧ (regAt (encode i).off).isSome = true

theorem resizeNn : Statement .resizeNn := by simp [Statement, encode]
theorem resizeBl : Statement .resizeBl := by simp [Statement, encode]
theorem regRdId : Statement .regRdId := by simp [Statement, encode]
theorem regWrId (d : Word) : Statement (.regWrId d) := by simp [Statement, encode]
theorem regRdCmd : Statement .regRdCmd := by simp [Statement, encode]
theorem regWrCmd (d : Word) : Statement (.regWrCmd d) := by simp [Statement, encode]
theorem regRdStatus : Statement .regRdStatus := by simp [Statement, encode]
theorem regWrStatus (d : Word) : Statement (.regWrStatus d) := by simp [Statement, encode]
theorem regRdIrqEn : Statement .regRdIrqEn := by simp [Statement, encode]
theorem regWrIrqEn (d : Word) : Statement (.regWrIrqEn d) := by simp [Statement, encode]
theorem regRdSrcBase : Statement .regRdSrcBase := by simp [Statement, encode]
theorem regWrSrcBase (d : Word) : Statement (.regWrSrcBase d) := by simp [Statement, encode]
theorem regRdSrcDim : Statement .regRdSrcDim := by simp [Statement, encode]
theorem regWrSrcDim (d : Word) : Statement (.regWrSrcDim d) := by simp [Statement, encode]
theorem regRdSrcCh : Statement .regRdSrcCh := by simp [Statement, encode]
theorem regWrSrcCh (d : Word) : Statement (.regWrSrcCh d) := by simp [Statement, encode]
theorem regRdDstBase : Statement .regRdDstBase := by simp [Statement, encode]
theorem regWrDstBase (d : Word) : Statement (.regWrDstBase d) := by simp [Statement, encode]
theorem regRdDstDim : Statement .regRdDstDim := by simp [Statement, encode]
theorem regWrDstDim (d : Word) : Statement (.regWrDstDim d) := by simp [Statement, encode]
theorem regRdCmdLatch : Statement .regRdCmdLatch := by simp [Statement, encode]
theorem regWrCmdLatch (d : Word) : Statement (.regWrCmdLatch d) := by simp [Statement, encode]

end Sys2Proof.Laws.EncodesRegisterAccess
end

