-- ==== Sys2Proof/Tests/Slice0.lean ====
section
/-! SUPPORT. Tests and witnesses. Expected values come from spec/: the encodings of 30_encoding.md and
10_state.md R22, and the vectors V, E, A of 95_test_vectors.md (named at each test). -/

namespace Sys2Proof.Tests

open Sys2Proof Sys2Proof.Machine

/-! Helpers. -/

/-- The answer of an outcome, and a default that no test expects. -/
def after (o : Host.Outcome State Fault Refusal) : State :=
  match o with
  | .next s => s
  | .fault _ => State.reset
  | .refused _ => State.reset

def isNext (o : Host.Outcome State Fault Refusal) : Bool :=
  match o with
  | .next _ => true
  | .fault _ => false
  | .refused _ => false

def word (s : State) : Word := statusWord s.status

/-- Registers for a command: source (base, w, h), channels, destination (base, w, h). -/
def setup (sb : Word) (sw sh : BitVec 16) (ch : BitVec 3) (db : Word) (dw dh : BitVec 16) : State :=
  { State.reset with
    srcBase := sb, srcW := sw, srcH := sh, ch := ch, dstBase := db, dstW := dw, dstH := dh }

/-- The setup of E22: SRC = (0x1000, 2, 1, 1), DST = (0x2000, 3, 1), memory [0, 255]. -/
def e22 : State :=
  { setup 0x1000#32 2#16 1#16 1#3 0x2000#32 3#16 1#16 with mem := [(0x1000, 0#8), (0x1001, 255#8)] }

/-- A state with its command accepted and running. -/
def running (op : Mode) (s : State) : State :=
  { s with status := { s.status with busy := true }, latch := some (operands op s) }

/-- A state whose host is next to move, at the first of these statements. -/
def at_ (prog : List Stmt) (s : State) : State := loadProgram prog s

/-- The same size in source and destination, one pixel of three channels each. -/
def small : State :=
  { setup 0x1000#32 1#16 1#16 3#3 0x2000#32 1#16 1#16 with
    mem := [(0x1000, 7#8), (0x1001, 8#8), (0x1002, 9#8)] }

/-! WellFormed: the check refuses its ill-formed terms. -/

theorem test_wellFormed_refuses_command_words_as_regWrCmd :
    WellFormed (.regWrCmd 1#32) = false ∧ WellFormed (.regWrCmd 2#32) = false
      ∧ WellFormed (.regWrCmd 0#32) = true ∧ WellFormed (.regWrCmd 0x102#32) = true := by decide

/-! Decoding: offsets and words written out from 10_state.md R22 and 30_encoding.md R81. -/

theorem test_decode_commands :
    decode ⟨.write, .word, 0x004#12, 0x00000001#32⟩ = .instr .resizeNn
      ∧ decode ⟨.write, .word, 0x004#12, 0x00000002#32⟩ = .instr .resizeBl
      ∧ decode ⟨.write, .word, 0x004#12, 0x00000102#32⟩ = .instr (.regWrCmd 0x102#32)
      ∧ decode ⟨.write, .word, 0x004#12, 0x00000000#32⟩ = .instr (.regWrCmd 0#32) := by decide

theorem test_decode_reads :
    decode ⟨.read, .word, 0b000000000000#12, 0#32⟩ = .instr .regRdId
      ∧ decode ⟨.read, .word, 0b000000000100#12, 0#32⟩ = .instr .regRdCmd
      ∧ decode ⟨.read, .word, 0b000000001000#12, 0#32⟩ = .instr .regRdStatus
      ∧ decode ⟨.read, .word, 0b000000001100#12, 0#32⟩ = .instr .regRdIrqEn
      ∧ decode ⟨.read, .word, 0b000000010000#12, 0#32⟩ = .instr .regRdSrcBase
      ∧ decode ⟨.read, .word, 0b000000010100#12, 0#32⟩ = .instr .regRdSrcDim
      ∧ decode ⟨.read, .word, 0b000000011000#12, 0#32⟩ = .instr .regRdSrcCh
      ∧ decode ⟨.read, .word, 0b000000011100#12, 0#32⟩ = .instr .regRdDstBase
      ∧ decode ⟨.read, .word, 0b000000100000#12, 0#32⟩ = .instr .regRdDstDim
      ∧ decode ⟨.read, .word, 0b000000100100#12, 0#32⟩ = .instr .regRdCmdLatch := by decide

theorem test_decode_writes :
    decode ⟨.write, .word, 0b000000000000#12, 5#32⟩ = .instr (.regWrId 5#32)
      ∧ decode ⟨.write, .word, 0b000000001000#12, 0xE#32⟩ = .instr (.regWrStatus 0xE#32)
      ∧ decode ⟨.write, .word, 0b000000001100#12, 3#32⟩ = .instr (.regWrIrqEn 3#32)
      ∧ decode ⟨.write, .word, 0b000000010000#12, 0x1000#32⟩ = .instr (.regWrSrcBase 0x1000#32)
      ∧ decode ⟨.write, .word, 0b000000010100#12, 0x00010002#32⟩ = .instr (.regWrSrcDim 0x00010002#32)
      ∧ decode ⟨.write, .word, 0b000000011000#12, 1#32⟩ = .instr (.regWrSrcCh 1#32)
      ∧ decode ⟨.write, .word, 0b000000011100#12, 0x2000#32⟩ = .instr (.regWrDstBase 0x2000#32)
      ∧ decode ⟨.write, .word, 0b000000100000#12, 0x00010003#32⟩ = .instr (.regWrDstDim 0x00010003#32)
      ∧ decode ⟨.write, .word, 0b000000100100#12, 7#32⟩ = .instr (.regWrCmdLatch 7#32) := by decide

theorem test_decode_refuses_by_name :
    decode ⟨.read, .word, 0x028#12, 0#32⟩ = .reservedOffset
      ∧ decode ⟨.write, .word, 0xFFC#12, 0#32⟩ = .reservedOffset
      ∧ decode ⟨.write, .half, 0x014#12, 0#32⟩ = .accessSize
      ∧ decode ⟨.read, .word, 0x016#12, 0#32⟩ = .accessSize
      ∧ decode ⟨.read, .byte, 0x000#12, 0#32⟩ = .accessSize := by decide

/-- spec/opcode_table.json: the CMDW rows' words, and the MMIO rows' offsets (a read, log entry 12). -/
theorem test_decodeTableWord :
    decodeTableWord 32 0x00000001 = some .resizeNn ∧ decodeTableWord 32 0x00000002 = some .resizeBl
      ∧ decodeTableWord 16 0x008 = some .regRdStatus ∧ decodeTableWord 16 0x024 = some .regRdCmdLatch
      ∧ decodeTableWord 16 0x028 = none := by decide

/-- R195: RESIZE.NN as the first instruction after reset. -/
theorem test_withFetchWord_resize :
    word (after (step (State.reset.withFetchWord 32 1))) = 0x00000604#32 := by decide

/-- A1, as the first instruction after reset. -/
theorem test_withFetchWord_read :
    (after (step (State.reset.withFetchWord 16 0))).resp = .data 0x42520001#32 := by decide

/-! Acceptance and errors: 95_test_vectors.md 2.3. -/

/-- E1, E4, E20: straight after reset. -/
theorem test_E1_E4_E20 :
    word (after (exec .resizeBl State.reset)) = 0x00000604#32
      ∧ word (after (exec (.regWrCmd 0#32) State.reset)) = 0x00000404#32
      ∧ word (after (exec (.regWrCmd 5#32) State.reset)) = 0x00000404#32
      ∧ (after (exec (.regWrCmd 5#32) State.reset)).cmdLatch = 5#32 := by decide

/-- E3, E7, E8, E9. -/
theorem test_E3_E7_E8_E9 :
    word (after (exec (.regWrCmd 0x102#32) (setup 0#32 1#16 1#16 1#3 0x10#32 1#16 1#16))) = 0x00000404#32
      ∧ word (after (exec .resizeNn (setup 0#32 2#16 2#16 7#3 0x100#32 1#16 1#16))) = 0x00000204#32
      ∧ word (after (exec .resizeBl (setup 0#32 2#16 2#16 1#3 0x100#32 0#16 1#16))) = 0x00000104#32
      ∧ word (after (exec .resizeBl (setup 0#32 2#16 2#16 1#3 0x100#32 3#16 0#16))) = 0x00000104#32 := by decide

/-- E11, E12, E13: the edge of the address space. -/
theorem test_E11_E12_E13 :
    word (after (exec .resizeBl (setup 0xFFFFFFFF#32 2#16 1#16 1#3 0x100#32 1#16 1#16))) = 0x00000304#32
      ∧ word (after (exec .resizeBl (setup 0xFFFFFFFC#32 4#16 1#16 1#3 0x100#32 1#16 1#16))) = 0x00000001#32
      ∧ word (after (exec .resizeBl (setup 0#32 1#16 1#16 4#3 0x100#32 0xFFFF#16 0xFFFF#16))) = 0x00000304#32 := by
  decide

/-- E14, E15, E16: overlap by one byte, adjacent, overlap from below. -/
theorem test_E14_E15_E16 :
    word (after (exec .resizeNn (setup 0x1000#32 4#16 1#16 1#3 0x1003#32 3#16 1#16))) = 0x00000504#32
      ∧ word (after (exec .resizeNn (setup 0x1000#32 4#16 1#16 1#3 0x1004#32 3#16 1#16))) = 0x00000001#32
      ∧ word (after (exec .resizeNn (setup 0x1000#32 4#16 1#16 1#3 0x0FFE#32 3#16 1#16))) = 0x00000504#32 := by
  decide

/-- E10, E18, E21, E28: which check comes first. -/
theorem test_E10_E18_E21_E28 :
    word (after (exec .resizeBl (setup 0#32 2#16 0#16 1#3 0x100#32 1#16 1#16))) = 0x00000604#32
      ∧ word (after (exec .resizeBl (setup 0#32 2#16 2#16 2#3 0#32 0#16 1#16))) = 0x00000204#32
      ∧ word (after (exec .resizeNn (setup 0#32 0#16 1#16 5#3 0x100#32 1#16 1#16))) = 0x00000604#32
      ∧ word (after (exec .resizeBl (setup 0xFFFFFFF0#32 16#16 1#16 1#3 0xFFFFFFF8#32 16#16 1#16)))
          = 0x00000304#32 := by decide

/-- E22: acceptance, then a CMD write while BUSY = 1. -/
theorem test_E22_accept_and_drop :
    word (after (exec .resizeBl e22)) = 0x00000001#32
      ∧ word (after (exec .resizeNn (after (exec .resizeBl e22)))) = 0x00000009#32
      ∧ (after (exec .resizeNn (after (exec .resizeBl e22)))).cmdLatch = 0x00000002#32 := by decide

/-- E23: STATUS writes of 0x1, 0x2 and 0x8 on DONE and DROPPED. -/
theorem test_E23_status_writes :
    let s : State := { State.reset with status := { Status.reset with done := true, dropped := true } }
    word (after (exec (.regWrStatus 1#32) s)) = 0x0000000A#32
      ∧ word (after (exec (.regWrStatus 2#32) s)) = 0x00000008#32
      ∧ word (after (exec (.regWrStatus 8#32) s)) = 0x00000002#32 := by decide

/-- E26: IRQ follows IRQ_EN and STATUS at once. -/
theorem test_E26_irq :
    let s : State := { State.reset with status := { Status.reset with err := true, errCode := 4#4 }, irqEn := 1#3 }
    irq s = false ∧ irq (after (exec (.regWrIrqEn 2#32) s)) = true
      ∧ irq (after (exec (.regWrStatus 4#32) (after (exec (.regWrIrqEn 2#32) s)))) = false := by decide

/-! The engine: 95_test_vectors.md 2.1, 2.2, 2.4. -/

/-- V1, E22: [0, 255] to 3×1 is [0, 127, 255], STATUS shows DONE. -/
theorem test_V1_completion :
    word (after (step (running .bilinear e22))) = 0x00000002#32
      ∧ (after (step (running .bilinear e22))).mem
          = [(0x1000, 0#8), (0x1001, 255#8), (0x2000, 0#8), (0x2001, 127#8), (0x2002, 255#8)] := by decide

/-- E27: the destination byte 0x2001 refused. -/
theorem test_E27_bus_error :
    let s : State := { running .bilinear e22 with
      platform := { Platform.default with refused := [{ dir := .write, base := 0x2001, size := 1 }] } }
    word (after (step s)) = 0x00000704#32 ∧ readByte (after (step s)).mem 0x2000 = none
      ∧ (after (step s)).mem = e22.mem := by decide

/-- Memory bytes from 0 on. -/
def bytes (l : List Nat) : Mem := cellsFrom 0 (l.map (BitVec.ofNat 8))

/-- The destination of a command on a source at 0, as numbers. -/
def resized (op : Mode) (sw sh : BitVec 16) (ch : BitVec 3) (dw dh : BitVec 16) (src : List Nat) : Option (List Nat) :=
  let L : Latch := { op := op, sb := 0#32, sw := sw, sh := sh, ch := ch, db := 0x2000#32, dw := dw, dh := dh }
  (results (bytes src) L (sampleNumbers L)).map (fun bs => bs.map BitVec.toNat)

/-- V2, V5, V16. -/
theorem test_V2_V5_V16 :
    resized .bilinear 2#16 2#16 1#3 3#16 3#16 [0, 100, 200, 255]
        = some [0, 50, 100, 100, 138, 177, 200, 227, 255]
      ∧ resized .bilinear 6#16 1#16 1#3 1#16 1#16 [0, 50, 100, 150, 200, 250] = some [0]
      ∧ resized .bilinear 2#16 1#16 1#3 4#16 1#16 [0, 100] = some [0, 33, 66, 100] := by decide

/-- V13, V14: three and four channels. -/
theorem test_V13_V14 :
    resized .bilinear 2#16 2#16 3#3 3#16 1#16 [1, 2, 3, 4, 5, 6, 7, 8, 9, 10, 11, 12]
        = some [1, 2, 3, 2, 3, 4, 4, 5, 6]
      ∧ resized .bilinear 2#16 1#16 4#3 3#16 1#16 [0, 0, 0, 255, 255, 255, 255, 255]
        = some [0, 0, 0, 255, 127, 127, 127, 255, 255, 255, 255, 255] := by decide

/-- V10, V11, V18, V19. -/
theorem test_V10_V11_V18_V19 :
    resized .nearest 8#16 1#16 1#3 3#16 1#16 [0, 10, 20, 30, 40, 50, 60, 70] = some [0, 20, 50]
      ∧ resized .nearest 8#16 1#16 1#3 5#16 1#16 [0, 10, 20, 30, 40, 50, 60, 70] = some [0, 10, 30, 40, 60]
      ∧ resized .bilinear 4#16 1#16 1#3 2#16 1#16 [0, 10, 20, 30] = some [0, 30]
      ∧ resized .nearest 4#16 1#16 1#3 2#16 1#16 [0, 10, 20, 30] = some [0, 20] := by decide

/-- V21, V22: the largest divisor, and the clamp with weight 0. -/
theorem test_V21_V22_axis :
    axis 32768 2 65535 = { i0 := 0, i1 := 1, r := 32768, a := 65534 }
      ∧ axis 1 65535 2 = { i0 := 65534, i1 := 65534, r := 0, a := 1 } := by decide

/-! Register access: 95_test_vectors.md 2.5. -/

/-- A4, A5, A8. -/
theorem test_A4_A5_A8 :
    (after (exec .regRdSrcCh (after (exec (.regWrSrcCh 0xFFFFFFFF#32) State.reset)))).resp = .data 0x7#32
      ∧ (after (exec .regRdIrqEn (after (exec (.regWrIrqEn 0xFFFFFFFF#32) State.reset)))).resp = .data 0x7#32
      ∧ (after (exec .regRdSrcDim (after (exec (.regWrSrcDim 0x00020003#32) State.reset)))).resp
          = .data 0x00020003#32
      ∧ (after (exec (.regWrSrcDim 0x00020003#32) State.reset)).srcW = 3#16 := by decide

/-- A2, A7: writes to the read-only registers. -/
theorem test_A2_A7 :
    (after (exec .regRdId (after (exec (.regWrId 0#32) State.reset)))).resp = .data 0x42520001#32
      ∧ (after (exec .regRdCmdLatch (after (exec (.regWrCmdLatch 7#32) State.reset)))).resp = .data 0#32 := by
  decide

/-- A10: STATUS after INVALID_ARGUMENT. -/
theorem test_A10_status_read :
    (after (exec .regRdStatus { State.reset with
      status := { Status.reset with err := true, errCode := 1#4 } })).resp = .data 0x00000104#32 := by decide

/-- A9: a halfword write to 0x014. -/
theorem test_A9_halfword_write :
    let s := at_ [.bus none ⟨.write, .half, 0x014#12, 5#32⟩] State.reset
    (after (step s)).resp = .error ∧ (after (step s)).faults = [.regAccessSize]
      ∧ (after (step s)).srcW = 0#16 := by decide

/-- R31: with ADDR_WIDTH = 16 the upper bits of SRC_BASE read 0. -/
theorem test_narrow_address :
    (after (exec (.regWrSrcBase 0x12345678#32)
      { State.reset with platform := { Platform.default with addrWidth := 16 } })).srcBase = 0x5678#32 := by decide

/-- R30, R34, R35: DST registers hold what is written. -/
theorem test_dst_registers :
    (after (exec .regRdDstDim (after (exec (.regWrDstDim 0x00010003#32) State.reset)))).resp = .data 0x00010003#32
      ∧ (after (exec .regRdDstBase (after (exec (.regWrDstBase 0xFFFFFFFF#32) State.reset)))).resp
          = .data 0xFFFFFFFF#32
      ∧ (after (exec .regRdSrcBase (after (exec (.regWrSrcBase 0x1000#32) State.reset)))).resp = .data 0x1000#32
      ∧ (after (exec .regRdCmd e22)).resp = .data 0#32 := by decide

/-- R86: RDMEM after WRMEM at the top of the address space, and past it. -/
theorem test_host_memory :
    readByte (after (step (at_ [.wrmem 0xFFFFFFFE#32 [1#8, 2#8]] State.reset))).mem 0xFFFFFFFF = some 2#8
      ∧ (after (step (at_ [.wrmem 0xFFFFFFFF#32 [1#8, 2#8]] State.reset))).faults = [.noSuchAddress] := by decide

/-! Witnesses: for each statement with hypotheses, a state and operands that meet them together. -/

theorem all_admitted (L : Latch) : RegionsAdmitted Platform.default L := ⟨fun _ _ _ => rfl, fun _ _ _ => rfl⟩

theorem e22_source (op : Mode) : SourceDefined e22 (operands op e22) := by
  intro a h1 h2
  have h1' : 0x1000 ≤ a := h1
  have h2' : a < 0x1002 := h2
  have : a = 0x1000 ∨ a = 0x1001 := by omega
  rcases this with rfl | rfl <;> rfl

theorem small_source (op : Mode) : SourceDefined small (operands op small) := by
  intro a h1 h2
  have h1' : 0x1000 ≤ a := h1
  have h2' : a < 0x1003 := h2
  have : a = 0x1000 ∨ a = 0x1001 ∨ a = 0x1002 := by omega
  rcases this with rfl | rfl | rfl <;> rfl

theorem running_inv : Inv (running .bilinear e22) where
  latch_busy := rfl
  status := by decide
  latch_valid := by
    intro L h
    cases h
    decide
  mem := ⟨by decide, by decide⟩
  src_base := by decide
  dst_base := by decide

theorem idle_inv : Inv e22 where
  latch_busy := rfl
  status := by decide
  latch_valid := by
    intro L h
    cases h
  mem := ⟨by decide, by decide⟩
  src_base := by decide
  dst_base := by decide

theorem witness_DecodeReadsBackEveryEncoding : WellFormed (.regWrCmd 0x102#32) = true := by decide

theorem witness_DecodedAccessIsTheEncoding :
    decode ⟨.write, .word, 0x020#12, 9#32⟩ = .instr (.regWrDstDim 9#32)
      ∧ decode ⟨.read, .word, 0x020#12, 9#32⟩ = .instr .regRdDstDim := by decide

theorem witness_StepRunsTheDecodedInstruction :
    let s := at_ [rd32 3 .id] State.reset
    s.faults = [] ∧ nextMove s = .host (.bus (some 3) (readOf .id)) ∧ decode (readOf .id) = .instr .regRdId
      ∧ ((after (step s)).host.temps.get 3) = 0x42520001#32 := by decide

theorem witness_RecordedFaultsAreNeverCleared :
    let s : State := { e22 with faults := [.hazard] }
    isNext (step e22) = true ∧ s.faults = .hazard :: []
      ∧ isNext (perform .reset s) = true ∧ isNext (perform (.host (.rdmem 0 0x3000#32)) s) = true
      ∧ isNext (perform .engine { running .bilinear e22 with faults := [.hazard] }) = true := by decide

theorem witness_NarrowOrMisalignedAccessIsABusError :
    let a : Access := ⟨.write, .byte, 0xFFC#12, 0#32⟩
    let b : Access := ⟨.read, .word, 0xFFE#12, 0#32⟩
    (at_ [.bus none a] e22).faults = [] ∧ nextMove (at_ [.bus none a] e22) = .host (.bus none a)
      ∧ a.size ≠ .word
      ∧ nextMove (at_ [.bus (some 1) b] e22) = .host (.bus (some 1) b) ∧ b.off.toNat % 4 ≠ 0
      ∧ (⟨.read, .word, 0xFFC#12, 0#32⟩ : Access).off.toNat % 4 = 0 := by decide

theorem witness_ReservedOffsetsReadZero :
    let a : Access := ⟨.read, .word, 0x028#12, 0#32⟩
    let b : Access := ⟨.write, .word, 0xFFC#12, 5#32⟩
    (at_ [.bus (some 7) a] e22).faults = [] ∧ nextMove (at_ [.bus (some 7) a] e22) = .host (.bus (some 7) a)
      ∧ nextMove (at_ [.bus (some 0) b] e22) = .host (.bus (some 0) b)
      ∧ nextMove (at_ [.bus none a] e22) = .host (.bus none a) ∧ nextMove (at_ [.bus none b] e22) = .host (.bus none b)
      ∧ 0x028 ≤ a.off.toNat ∧ 0x028 ≤ b.off.toNat ∧ a.off.toNat % 4 = 0 ∧ b.off.toNat % 4 = 0 := by decide

theorem witness_HostControlStatements :
    let p (x : Stmt) : State := at_ [x, .label 4, .label 4] e22
    (p .fence).faults = [] ∧ (p .fence).host.prog[1]? = some (.label 4)
      ∧ (∀ j, j < 1 → (p .fence).host.prog[j]? ≠ some (.label 4)) ∧ Stmt.label 5 ∉ (p (.bclr 0 0 5)).host.prog
      ∧ nextMove (p (.bset 0 31 5)) = .host (.bset 0 31 5) ∧ nextMove (p (.bclr 0 0 4)) = .host (.bclr 0 0 4)
      ∧ nextMove (p (.bclr 0 0 5)) = .host (.bclr 0 0 5)
      ∧ ((p .fence).host.temps.get 0).getLsbD 31 = false ∧ ((p .fence).host.temps.get 0).getLsbD 0 = false
      ∧ nextMove (p .fence) = .host .fence ∧ nextMove (p (.label 9)) = .host (.label 9)
      ∧ nextMove (p .halt) = .host .halt := by decide

theorem witness_RegisterValuesAreStable :
    let s := at_ [rd32 1 .status] (running .nearest e22)
    isNext (step s) = true ∧ nextMove s = .host (rd32 1 .status) ∧ (readOf .status).dir = .read
      ∧ exec (decodeRead .dstDim) s = .next (s.setResp (.data 0x00010003#32)) := by
  refine ⟨by decide, by decide, by decide, rfl⟩

theorem witness_ValidCommandIsAccepted : e22.status.busy = false ∧ ValidSetup e22 := by decide

theorem witness_IllegalWordIsRejected :
    (3#32 : Word) ≠ 1#32 ∧ (3#32 : Word) ≠ 2#32 ∧ e22.status.busy = false
      ∧ (running .nearest e22).status.busy = true := by decide

theorem witness_CommandWhileBusyIsDropped : (running .bilinear e22).status.busy = true := by decide

theorem witness_ErrorIsTheFirstFailingCheck : e22.status.busy = false := by decide

theorem witness_RejectionWritesOnlyStatusAndCmdLatch :
    State.reset.status.busy = false ∧ isNext (exec (.regWrCmd 9#32) State.reset) = true
      ∧ (after (exec (.regWrCmd 9#32) State.reset)).status.err = true := by decide

theorem witness_CommandStraightAfterReset :
    blockReset (running .nearest e22) = blockReset (running .nearest e22)
      ∧ (blockReset (running .nearest e22)).srcW = 0#16 := by decide

theorem witness_RegistersChangeOnlyByTheirWrites :
    (after (exec (.regWrSrcDim 1#32) e22)).srcW ≠ e22.srcW ∧ (after (exec (.regWrIrqEn 1#32) e22)).irqEn ≠ e22.irqEn
      ∧ (after (exec (.regWrSrcBase 1#32) e22)).srcBase ≠ e22.srcBase
      ∧ (after (exec (.regWrSrcCh 3#32) e22)).ch ≠ e22.ch
      ∧ (after (exec (.regWrDstBase 1#32) e22)).dstBase ≠ e22.dstBase
      ∧ (after (exec (.regWrDstDim 1#32) e22)).dstW ≠ e22.dstW
      ∧ (after (exec .resizeNn e22)).latch ≠ e22.latch ∧ (after (exec .resizeBl e22)).status ≠ e22.status := by
  decide

theorem witness_NearestResizeWritesItsSamples :
    let s := running .nearest e22
    s.faults = [] ∧ nextMove s = .engine ∧ s.latch = some (operands .nearest e22)
      ∧ (operands .nearest e22).op = .nearest ∧ (operands .nearest e22).Valid (addrLimit s.platform)
      ∧ SourceDefined s (operands .nearest e22) ∧ RegionsAdmitted s.platform (operands .nearest e22) :=
  ⟨rfl, by decide, rfl, rfl, by decide, e22_source .nearest, all_admitted _⟩

theorem witness_BilinearResizeWritesItsSamples :
    let s := running .bilinear e22
    s.faults = [] ∧ nextMove s = .engine ∧ s.latch = some (operands .bilinear e22)
      ∧ (operands .bilinear e22).op = .bilinear ∧ (operands .bilinear e22).Valid (addrLimit s.platform)
      ∧ SourceDefined s (operands .bilinear e22) ∧ RegionsAdmitted s.platform (operands .bilinear e22) :=
  ⟨rfl, by decide, rfl, rfl, by decide, e22_source .bilinear, all_admitted _⟩

/-- Also a witness for EngineChangesOnlyTheDestination and SourceIsPreserved. -/
theorem witness_EngineChangesOnlyTheDestination :
    Inv (running .bilinear e22) ∧ nextMove (running .bilinear e22) = .engine
      ∧ isNext (step (running .bilinear e22)) = true :=
  ⟨running_inv, by decide, by decide⟩

theorem witness_SourceIsPreserved :
    Inv (running .bilinear e22) ∧ (running .bilinear e22).latch = some (operands .bilinear e22)
      ∧ nextMove (running .bilinear e22) = .engine ∧ isNext (step (running .bilinear e22)) = true :=
  ⟨running_inv, rfl, by decide, by decide⟩

theorem witness_RefusedAccessEndsWithBusError :
    let s : State := { running .bilinear e22 with
      platform := { Platform.default with
        refused := [{ dir := .write, base := 0x2002, size := 1 }, { dir := .read, base := 0x1001, size := 1 }] } }
    s.faults = [] ∧ nextMove s = .engine ∧ s.latch = some (operands .bilinear e22)
      ∧ memAdmits s.platform ((operands .bilinear e22).dst.base + 2) .write = false
      ∧ 2 < (operands .bilinear e22).dst.size
      ∧ ((plan (operands .bilinear e22) 1).taps.any
          fun p => p.weight ≠ 0 && !memAdmits s.platform p.addr .read) = true := by decide

theorem witness_UndefinedSourceRecordsUninitRead :
    let s : State := { running .bilinear e22 with mem := [(0x1000, 0#8)] }
    s.faults = [] ∧ nextMove s = .engine ∧ s.latch = some (operands .bilinear e22)
      ∧ (operands .bilinear e22).Valid (addrLimit s.platform)
      ∧ 1 < (operands .bilinear e22).dst.size
      ∧ ((plan (operands .bilinear e22) 1).taps.any
          fun p => p.weight ≠ 0 && (readByte s.mem p.addr).isNone) = true := by decide

theorem witness_RunningCommandCompletes :
    let s := running .bilinear e22
    Inv s ∧ s.faults = [] ∧ s.sched = [] ∧ s.status.busy = true
      ∧ ∀ L, s.latch = some L → SourceDefined s L :=
  ⟨running_inv, rfl, rfl, rfl, fun L h => by cases h; exact e22_source .bilinear⟩

theorem witness_ResizeCommandEndToEnd :
    let s : State := { e22 with host := { e22.host with prog := [stmtResizeBl] } }
    modeOf 0x00000002#32 = some .bilinear ∧ s.faults = [] ∧ s.sched = [] ∧ s.status.busy = false ∧ ValidSetup s
      ∧ nextMove s = .host (.bus none (writeOf .cmd 0x00000002#32))
      ∧ SourceDefined s (operands .bilinear s) ∧ RegionsAdmitted s.platform (operands .bilinear s) :=
  ⟨rfl, rfl, rfl, rfl, by decide, by decide, e22_source .bilinear, all_admitted _⟩

theorem witness_NearestCoordinateLaw : 1 ≤ 65535 ∧ 1 ≤ 65535 ∧ 65534 < 65535 ∧ 0 ≤ 65534 := by decide

/-- With the boundary `dd = 2` and the last index. -/
theorem witness_BilinearCoordinateLaw : 1 ≤ 1 ∧ 2 ≤ 2 ∧ 1 < 2 := by decide

theorem witness_BilinearBlendLaw :
    let L := operands .bilinear e22
    let x := axis 1 L.sw.toNat L.dw.toNat
    let y := axis 0 L.sh.toNat L.dh.toNat
    1 < L.dw.toNat ∧ 0 < L.dh.toNat
      ∧ readByte e22.mem (L.src.addr x.i0 y.i0 0) = some 0#8
      ∧ readByte e22.mem (L.src.addr x.i1 y.i0 0) = some 255#8
      ∧ readByte e22.mem (L.src.addr x.i0 y.i1 0) = some 0#8
      ∧ readByte e22.mem (L.src.addr x.i1 y.i1 0) = some 255#8 := by decide

theorem witness_DatapathWidthLaw : 65534 < 65535 ∧ 65535 ≤ 65535 ∧ 7 ≤ 7 ∧ 255 ≤ 255 := by decide

theorem witness_IdentityResizeCopies (op : Mode) :
    let s := running op small
    let L := operands op small
    s.faults = [] ∧ nextMove s = .engine ∧ s.latch = some L ∧ L.Valid (addrLimit s.platform)
      ∧ SourceDefined s L ∧ RegionsAdmitted s.platform L ∧ L.dw = L.sw ∧ L.dh = L.sh ∧ 2 < L.ch.toNat :=
  ⟨rfl, by cases op <;> decide, rfl, by cases op <;> decide, small_source op, all_admitted _, rfl, rfl,
    by cases op <;> decide⟩

/-- Two sources that agree on channel 1 and differ on channel 0. -/
theorem witness_ChannelsAreIndependent :
    let s1 := running .bilinear small
    let s2 : State := { running .bilinear small with mem := [(0x1000, 99#8), (0x1001, 8#8), (0x1002, 9#8)] }
    let L := operands .bilinear small
    s2.faults = [] ∧ nextMove s2 = .engine ∧ s2.latch = some L ∧ L.Valid (addrLimit s2.platform)
      ∧ SourceDefined s2 L ∧ RegionsAdmitted s2.platform L
      ∧ readByte s1.mem (L.src.addr 0 0 1) = readByte s2.mem (L.src.addr 0 0 1)
      ∧ readByte s1.mem (L.src.addr 0 0 0) ≠ readByte s2.mem (L.src.addr 0 0 0) := by
  refine ⟨rfl, by decide, rfl, by decide, ?_, all_admitted _, by decide, by decide⟩
  intro a h1 h2
  have h1' : 0x1000 ≤ a := h1
  have h2' : a < 0x1003 := h2
  have : a = 0x1000 ∨ a = 0x1001 ∨ a = 0x1002 := by omega
  rcases this with rfl | rfl | rfl <;> rfl

theorem witness_ConstantImageStaysConstant (op : Mode) :
    let L := operands op small
    ∀ x y : Nat, x < L.sw.toNat → y < L.sh.toNat →
      readByte (running op small).mem (L.src.addr x y 1) = some 8#8 := by
  intro L x y hx hy
  have hx' : x < 1 := hx
  have hy' : y < 1 := hy
  obtain rfl : x = 0 := by omega
  obtain rfl : y = 0 := by omega
  rfl

theorem witness_AddressLaw :
    (operands .bilinear e22).Valid (2 ^ 32) ∧ 2 < (operands .bilinear e22).dw.toNat
      ∧ 0 < (operands .bilinear e22).dh.toNat ∧ 0 < (operands .bilinear e22).ch.toNat := by decide

theorem witness_NoAddressWraps :
    Inv (running .bilinear e22) ∧ 2 < (operands .bilinear e22).dst.size
      ∧ (let s := setup 0xFFFFFFFF#32 2#16 1#16 1#3 0x100#32 1#16 1#16
         s.status.busy = false ∧ 0 < s.srcW.toNat ∧ 0 < s.srcH.toNat ∧ 0 < s.dstW.toNat ∧ 0 < s.dstH.toNat
          ∧ s.ch.toNat = 1
          ∧ 2 ^ s.platform.addrWidth < s.srcBase.toNat + s.srcW.toNat * s.srcH.toNat * s.ch.toNat) :=
  ⟨running_inv, by decide, by decide⟩

theorem witness_SamplesFillTheBuffer :
    let b : Buffer := { base := 5, w := 2, h := 3, c := 4 }
    b.addr 1 2 3 = 28 ∧ b.base ≤ 28 ∧ 28 < b.base + b.w * b.h * b.c := by decide

theorem witness_IrqFallsOnlyByTheHost :
    let s : State := at_ [stmtClrst] { e22 with status := { Status.reset with done := true }, irqEn := 1#3 }
    isNext (step s) = true ∧ irq s = true ∧ irq (after (step s)) = false := by decide

theorem witness_ConfigurationWritesDoNotReachTheEngine :
    (running .bilinear e22).status.busy = true
      ∧ (after (exec (.regWrDstDim 0x00010002#32) (running .bilinear e22))).dstW = 2#16 := by decide

theorem witness_PlatformIsFixed : isNext (step (running .bilinear e22)) = true := by decide

theorem witness_StepKeepsTheInvariant : Inv e22 ∧ isNext (step e22) = true := ⟨idle_inv, by decide⟩

theorem witness_BusyFollowsAcceptanceAndCompletion :
    let s := at_ [stmtResizeNn] e22
    isNext (step s) = true ∧ s.status.busy = false ∧ (after (step s)).status.busy = true
      ∧ (running .bilinear e22).status.busy = true
      ∧ (after (step (running .bilinear e22))).status.busy = false := by decide

theorem witness_DroppedIsSticky :
    let s := at_ [stmtResizeNn] (running .nearest e22)
    let u := at_ [stmtClrst] { e22 with status := { Status.reset with dropped := true } }
    isNext (step s) = true ∧ s.status.dropped = false ∧ (after (step s)).status.dropped = true
      ∧ isNext (step u) = true ∧ u.status.dropped = true ∧ (after (step u)).status.dropped = false := by decide

theorem witness_StatusWriteWhileBusyClearsOnlyDropped :
    Inv { running .bilinear e22 with status := { Status.reset with busy := true, dropped := true } } where
  latch_busy := rfl
  status := by decide
  latch_valid := running_inv.latch_valid
  mem := running_inv.mem
  src_base := running_inv.src_base
  dst_base := running_inv.dst_base

theorem witness_DoneAndErrFollowTheirRules :
    let r (st : Status) (x : Stmt) : State := at_ [x] { e22 with status := st, dstW := 0#16 }
    let d : Status := { Status.reset with done := true }
    let e : Status := { Status.reset with err := true, errCode := 1#4 }
    (after (step (running .bilinear e22))).status.done = true
      ∧ (after (step (r Status.reset stmtResizeBl))).status.err = true
      ∧ (after (step (r d stmtClrst))).status.done = false
      ∧ (after (step (r d stmtResizeBl))).status.done = false
      ∧ (after (step (r e stmtClrst))).status.err = false := by decide

theorem witness_HaltedRunContinuesToItsEnd :
    let s : State := { running .bilinear e22 with host := { e22.host with halted := true } }
    Safe s ∧ s.sched = [] ∧ s.host.halted = true ∧ s.status.busy = true
      ∧ (∀ L, s.latch = some L → SourceDefined s L)
      ∧ RunOver { e22 with host := { e22.host with halted := true } } :=
  ⟨rfl, rfl, rfl, rfl, fun L h => by cases h; exact e22_source .bilinear, by decide⟩

theorem witness_HaltedRunContinuesToItsEnd_inv :
    Inv { running .bilinear e22 with host := { e22.host with halted := true } } where
  latch_busy := rfl
  status := by decide
  latch_valid := running_inv.latch_valid
  mem := running_inv.mem
  src_base := running_inv.src_base
  dst_base := running_inv.dst_base

theorem witness_MemoryChangesOnlyBy :
    let s := at_ [.wrmem 0x3000#32 [9#8]] e22
    isNext (step s) = true ∧ readByte (after (step s)).mem 0x3000 ≠ readByte s.mem 0x3000 := by decide

theorem witness_RegionHazard :
    let s (x : Stmt) : State := at_ [x] (running .bilinear e22)
    (s .fence).faults = [] ∧ (s .fence).latch = some (operands .bilinear e22)
      ∧ inWindow (s .fence).platform 0x1001 = false
      ∧ nextMove (s (.wrmem 0x1001#32 [1#8])) = .host (.wrmem 0x1001#32 [1#8])
      ∧ (operands .bilinear e22).src.contains 0x1001 = true
      ∧ nextMove (s (.wrmem 0x2002#32 [1#8])) = .host (.wrmem 0x2002#32 [1#8])
      ∧ (operands .bilinear e22).dst.contains 0x2002 = true
      ∧ nextMove (s (.rdmem 0 0x2000#32)) = .host (.rdmem 0 0x2000#32)
      ∧ nextMove (s (.rdmem 0 0x1001#32)) = .host (.rdmem 0 0x1001#32)
      ∧ readByte (s .fence).mem 0x1001 = some 255#8
      ∧ nextMove (s (.wrmem 0x0FFF#32 ([1#8] ++ 2#8 :: [3#8]))) = .host (.wrmem 0x0FFF#32 ([1#8] ++ 2#8 :: [3#8]))
      ∧ (operands .bilinear e22).src.contains (0x0FFF + 1) = true
      ∧ (operands .bilinear e22).src.contains 0x0FFF = false ∧ (operands .bilinear e22).dst.contains 0x0FFF = false
      ∧ inWindow (s .fence).platform 0x0FFF = false := by decide

/-- R200: a WRMEM that meets the source at its second byte. -/
theorem test_wrmem_meets_a_region :
    let u := after (step (at_ [.wrmem 0x0FFF#32 [1#8, 2#8, 3#8]] (running .bilinear e22)))
    u.faults = [.hazard] ∧ readByte u.mem 0x0FFF = some 1#8 ∧ readByte u.mem 0x1000 = some 0#8
      ∧ readByte u.mem 0x1001 = some 255#8 := by decide

/-- A machine with 16 address bits whose window covers the sample addresses 0x4000 to 0x4FFF. -/
def narrow (x : Stmt) : State :=
  at_ [x] { e22 with platform := { addrWidth := 16, regPage := 4, windowInSample := true, refused := [] } }

theorem witness_HostAccessOffSampleMemoryRecordsAFault :
    (narrow .fence).faults = []
      ∧ nextMove (narrow (.rdmem 1 0x10000#32)) = .host (.rdmem 1 0x10000#32)
      ∧ 2 ^ (narrow .fence).platform.addrWidth ≤ (0x10000#32).toNat
      ∧ nextMove (narrow (.rdmem 1 0x4FFF#32)) = .host (.rdmem 1 0x4FFF#32)
      ∧ inWindow (narrow .fence).platform 0x4FFF = true
      ∧ nextMove (narrow (.wrmem 0xFFFF#32 ([1#8] ++ 2#8 :: []))) = .host (.wrmem 0xFFFF#32 ([1#8] ++ 2#8 :: []))
      ∧ 2 ^ (narrow .fence).platform.addrWidth ≤ 0xFFFF + 1 ∧ inWindow (narrow .fence).platform 0xFFFF = false
      ∧ nextMove (narrow (.wrmem 0x3FFF#32 ([1#8] ++ 2#8 :: []))) = .host (.wrmem 0x3FFF#32 ([1#8] ++ 2#8 :: []))
      ∧ inWindow (narrow .fence).platform (0x3FFF + 1) = true ∧ inWindow (narrow .fence).platform 0x3FFF = false
      ∧ (narrow .fence).latch = none := by decide

theorem witness_RegionHazard_inv : Inv (at_ [.fence] (running .bilinear e22)) where
  latch_busy := rfl
  status := by decide
  latch_valid := running_inv.latch_valid
  mem := running_inv.mem
  src_base := running_inv.src_base
  dst_base := running_inv.dst_base

theorem witness_HostWriteStoresItsBytes :
    let s := at_ [.wrmem 0xFFFFFFFE#32 [1#8, 2#8]] e22
    let u := at_ [.wrmem 0x0FFF#32 [1#8]] (running .bilinear e22)
    let L := operands .bilinear e22
    s.faults = [] ∧ s.latch = none ∧ nextMove s = .host (.wrmem 0xFFFFFFFE#32 [1#8, 2#8])
      ∧ (0xFFFFFFFE#32).toNat + 2 ≤ 2 ^ s.platform.addrWidth
      ∧ (∀ k, k < 2 → inWindow s.platform ((0xFFFFFFFE#32).toNat + k) = false)
      ∧ u.faults = [] ∧ nextMove u = .host (.wrmem 0x0FFF#32 [1#8]) ∧ u.latch = some L
      ∧ inWindow u.platform 0x0FFF = false ∧ L.src.contains 0x0FFF = false ∧ L.dst.contains 0x0FFF = false :=
  ⟨rfl, rfl, by decide, by decide, fun _ _ => rfl, rfl, by decide, rfl, rfl, by decide, by decide⟩

theorem witness_HostReadLoadsTheByte :
    let s (a : Word) : State := at_ [.rdmem 2 a] e22
    (s 0x1001#32).faults = [] ∧ (s 0x1001#32).latch = none
      ∧ nextMove (s 0x1001#32) = .host (.rdmem 2 0x1001#32) ∧ readByte (s 0x1001#32).mem 0x1001 = some 255#8
      ∧ nextMove (s 0xFFFFFFFF#32) = .host (.rdmem 2 0xFFFFFFFF#32)
      ∧ readByte (s 0xFFFFFFFF#32).mem 0xFFFFFFFF = none
      ∧ (0xFFFFFFFF#32).toNat < 2 ^ (s 0#32).platform.addrWidth
      ∧ inWindow (s 0#32).platform 0xFFFFFFFF = false
      ∧ (let u : State := at_ [.rdmem 2 0x1001#32] { running .bilinear e22 with mem := [(0x1000, 0#8)] }
         u.faults = [] ∧ u.latch = some (operands .bilinear e22) ∧ nextMove u = .host (.rdmem 2 0x1001#32)
          ∧ (operands .bilinear e22).dst.contains 0x1001 = false ∧ readByte u.mem 0x1001 = none)
      ∧ nextMove (at_ [.rdmem 2 0x2003#32] (running .bilinear e22)) = .host (.rdmem 2 0x2003#32)
      ∧ (operands .bilinear e22).dst.contains 0x2003 = false := by decide

theorem witness_ResetPutsTheBlockInItsResetState :
    let s : State := { running .bilinear e22 with sched := [.reset] }
    s.faults = [] ∧ nextMove s = .reset ∧ s.latch = some (operands .bilinear e22)
      ∧ nextMove { e22 with sched := [.reset] } = .reset ∧ e22.latch = none := by decide

theorem witness_ResetPutsTheBlockInItsResetState_inv :
    Inv { running .bilinear e22 with sched := [.reset] } where
  latch_busy := rfl
  status := by decide
  latch_valid := running_inv.latch_valid
  mem := running_inv.mem
  src_base := running_inv.src_base
  dst_base := running_inv.dst_base

end Sys2Proof.Tests
end

section
/-! SUPPORT. Frames of whole moves: the part of the state that an instruction, a host statement or an agent's move
never writes, and the platform's parameters among it. -/

namespace Sys2Proof.Machine

/-- An instruction writes registers of the block and the bus answer only (40_resize.md R100, R101;
41_register_access.md R140, R141). -/
theorem exec_frame {i : Instr} {s t : State} (h : exec i s = .next t) :
    t = { t with
      mem := s.mem, faults := s.faults, host := s.host, sched := s.sched, platform := s.platform, ctr := s.ctr } := by
  cases i with
  | resizeNn => cases h; rw [cmdWrite_frame]; rfl
  | resizeBl => cases h; rw [cmdWrite_frame]; rfl
  | regWrCmd d => cases h; rw [cmdWrite_frame]; rfl
  | _ => cases h; rfl

/-- The engine's step writes STATUS, LATCH, sample memory, the fault list and the count of ended commands only. -/
theorem engineStep_frame (s : State) :
    engineStep s = { s with
      status := (engineStep s).status, latch := (engineStep s).latch, mem := (engineStep s).mem
      faults := (engineStep s).faults, ctr := (engineStep s).ctr } := by
  rcases engineStep_cases s with ⟨_, h⟩ | ⟨L, _, h | ⟨bs, _, h⟩ | h⟩ <;> rw [h] <;> rfl

@[simp] theorem popTurn_platform (s : State) : (popTurn s).platform = s.platform := rfl

@[simp] theorem loadTemp_platform (t : Option Temp) (s : State) : (loadTemp t s).platform = s.platform := by
  rw [loadTemp_eq]

@[simp] theorem reservedAccess_platform (d : Dir) (s : State) : (reservedAccess d s).platform = s.platform := by
  cases d <;> rfl

/-- An access to the register window, of whatever kind, leaves the platform alone. -/
theorem hostBus_platform {t : Option Temp} {a : Access} {s u : State} (h : hostBus t a s = .next u) :
    u.platform = s.platform := by
  rcases hostBus_cases h with ⟨i, v, _, hv, rfl⟩ | ⟨_, rfl⟩ | ⟨_, rfl⟩
  · have hp : v.platform = s.platform := by rw [exec_frame hv]
    simp [advance, hp]
  · simp [advance]
  · rfl

theorem hostStmt_platform {x : Stmt} {s u : State} (h : hostStmt x s = .next u) : u.platform = s.platform := by
  by_cases hx : ∃ t a, x = .bus t a
  · obtain ⟨t, a, rfl⟩ := hx
    exact hostBus_platform h
  · rw [hostStmt_frame (fun t a he => hx ⟨t, a, he⟩) h]

/-- No agent's move writes the platform. -/
theorem perform_platform {m : Move} {s t : State} (h : perform m s = .next t) : t.platform = s.platform := by
  cases m with
  | reset => cases h; rfl
  | engine => cases h; rw [engineStep_frame]
  | host x => exact hostStmt_platform h
  | idle => cases h; rfl

end Sys2Proof.Machine
end

section
/-! PROOFS. The statements of 00_scope.md: a buffer's samples and its addresses (R12), and the platform's parameters
(R7). -/

namespace Sys2Proof.Machine

/-- A sample's distance from the buffer's base determines its coordinates. -/
theorem Buffer.coord_addr {b : Buffer} {x y c : Nat} (hx : x < b.w) (hc : c < b.c) :
    b.coord (b.addr x y c - b.base) = { dx := x, dy := y, c := c } := by
  rw [show b.addr x y c - b.base = (y * b.w + x) * b.c + c by simp only [Buffer.addr]; omega]
  exact Buffer.coord_index hx hc

theorem Buffer.addr_inj {b : Buffer} {x y c x' y' c' : Nat} (hx : x < b.w) (hc : c < b.c) (hx' : x' < b.w)
    (hc' : c' < b.c) (h : b.addr x y c = b.addr x' y' c') : x = x' ∧ y = y' ∧ c = c' := by
  have hcoord := Buffer.coord_addr (y := y) hx hc
  rw [h, Buffer.coord_addr hx' hc', Coord.mk.injEq] at hcoord
  obtain ⟨hdx, hdy, hch⟩ := hcoord
  exact ⟨hdx.symm, hdy.symm, hch.symm⟩

/-- Every address of a buffer is the one of the sample that its distance from the base numbers: a buffer with an
address in it has no empty dimension. -/
theorem Buffer.exists_addr_eq {b : Buffer} {a : Nat} (ha : b.base ≤ a) (hs : a < b.stop) :
    ∃ x y c, x < b.w ∧ y < b.h ∧ c < b.c ∧ b.addr x y c = a := by
  have hk : a - b.base < b.size := by simp only [Buffer.stop] at hs; omega
  have hpos : 0 < b.w * b.h * b.c := Nat.zero_lt_of_lt hk
  have hw : 0 < b.w := Nat.pos_of_mul_pos_right (Nat.pos_of_mul_pos_right hpos)
  have hc : 0 < b.c := Nat.pos_of_mul_pos_left hpos
  obtain ⟨hx, hy, hch⟩ := Buffer.coord_bounds hw hc hk
  exact ⟨_, _, _, hx, hy, hch, by rw [Buffer.addr_coord]; omega⟩

end Sys2Proof.Machine

open Sys2Proof Sys2Proof.Machine

/-- Settles O43: a sample's number in the buffer and its coordinates determine each other. -/
theorem samplesFillTheBuffer : Obligations.SamplesFillTheBuffer := fun _ =>
  ⟨fun _ _ _ hx hy hc => Buffer.addr_bounds hx hy hc,
    fun _ _ _ _ _ _ hx _ hc hx' _ hc' h => Buffer.addr_inj hx hc hx' hc' h,
    fun _ ha hs => Buffer.exists_addr_eq ha hs⟩

/-- Settles O49: a step is one agent's move after the schedule's entry is used, and neither writes the platform. -/
theorem platformIsFixed : Obligations.PlatformIsFixed := by
  intro s t h
  obtain ⟨_, hmove⟩ := step_cases h
  calc t.platform = (popTurn s).platform := perform_platform hmove
    _ = s.platform := popTurn_platform s
end

section
/-! SUPPORT. STATUS and CMD_LATCH from step to step: what an access to the window executes, and which moves write the
flags (10_state.md R25 to R28, R36, R37). -/

namespace Sys2Proof.Machine

/-! Accesses to the window. -/

/-- A word access at a reserved offset stands for no instruction (10_state.md R37). -/
theorem decode_reserved {a : Access} (hs : a.size = .word) (ho : a.off.toNat % 4 = 0) (hr : 0x028 ≤ a.off.toNat) :
    decode a = .reservedOffset := by
  simp [decode, (aligned_iff a).mpr ⟨hs, ho⟩, regAt_reserved hr]

theorem hostBus_reserved {t : Option Temp} {a : Access} (s : State) (h : decode a = .reservedOffset) :
    hostBus t a s = .next (advance (loadTemp t (reservedAccess a.dir s))) := by
  simp [hostBus, h]

/-- Every register read answers a word and does nothing else (41_register_access.md R140). -/
theorem exec_decodeRead (r : Reg) (s : State) : ∃ w, exec (decodeRead r) s = .next (respondData w s) := by
  cases r <;> exact ⟨_, rfl⟩

/-- The CMD write of any word, however the decoder names it (30_encoding.md R87). -/
theorem exec_decodeCommand (v : Word) (s : State) :
    exec (decodeCommand v) s = .next (respondAck (cmdWrite v s)) := by
  unfold decodeCommand
  split
  · next h => subst h; rfl
  · split
    · next h => subst h; rfl
    · rfl

/-- A register write leaves STATUS alone, unless it is one to CMD or STATUS. -/
theorem exec_decodeWrite_status {r : Reg} {d : Word} {s t : State} (hc : r ≠ .cmd) (hs : r ≠ .status)
    (h : exec (decodeWrite r d) s = .next t) : t.status = s.status := by
  cases r with
  | cmd => exact absurd rfl hc
  | status => exact absurd rfl hs
  | _ => cases h; rfl

/-- CMD_LATCH takes the word of every command that is not dropped (10_state.md R36). -/
theorem cmdWrite_cmdLatch (v : Word) (s : State) :
    (cmdWrite v s).cmdLatch = if s.status.busy then s.cmdLatch else v := by
  rcases cmdWrite_cases v s with ⟨hb, h⟩ | ⟨hb, _, _, h⟩ | ⟨hb, _, _, h⟩ <;> rw [h, hb] <;> rfl

theorem cmdWrite_busy {v : Word} {s : State} (hb : s.status.busy = true) : cmdWrite v s = dropCommand s := by
  simp [cmdWrite, hb]

@[simp] theorem blockReset_status (s : State) : (blockReset s).status = Status.reset := rfl

/-- No flag is pending after a reset, whatever IRQ_EN holds (10_state.md R40). -/
theorem irq_eq_false_of_reset {s : State} (h : s.status = Status.reset) : irq s = false := by
  simp [irq, h, Status.reset]

/-! The moves that write STATUS. -/

/-- A STATUS write, flag by flag (10_state.md R25 to R28). -/
theorem statusWrite_eq (d : Word) (st : Status) :
    statusWrite d st =
      { busy := st.busy
        done := st.done && !d.getLsbD 1
        err := st.err && !d.getLsbD 2
        dropped := st.dropped && !d.getLsbD 3
        errCode := if d.getLsbD 2 then 0#4 else st.errCode } := by
  unfold statusWrite clearDroppedBit clearErrBit clearDoneBit
  cases d.getLsbD 1 <;> cases d.getLsbD 2 <;> cases d.getLsbD 3 <;> simp

@[simp] theorem popTurn_status (s : State) : (popTurn s).status = s.status := rfl

@[simp] theorem advance_loadTemp_status (t : Option Temp) (s : State) :
    (advance (loadTemp t s)).status = s.status := by rw [loadTemp_eq]; rfl

@[simp] theorem advance_loadTemp_latch (t : Option Temp) (s : State) :
    (advance (loadTemp t s)).latch = s.latch := by rw [loadTemp_eq]; rfl

@[simp] theorem reservedAccess_status (d : Dir) (s : State) : (reservedAccess d s).status = s.status := by
  cases d <;> rfl

/-- The host is next to move, and writes `d` to the register `r`. -/
def WritesReg (s : State) (r : Reg) (d : Word) : Prop :=
  ∃ (x : Option Temp) (a : Access), nextMove s = .host (.bus x a) ∧ a.dir = .write ∧ a.off = r.off ∧ a.data = d

/-- What the step from `s` to `t` does to STATUS, by the move that does it. -/
inductive StatusStep (s t : State) : Prop where
  | same (hst : t.status = s.status)
  | reset (hm : nextMove s = .reset) (hst : t.status = Status.reset)
  | done (hm : nextMove s = .engine) (hst : t.status = { s.status with busy := false, done := true })
  | busError (hm : nextMove s = .engine)
      (hst : t.status = { s.status with busy := false, err := true, errCode := ErrCause.busError.code })
  | statusWrite (d : Word) (hw : WritesReg s .status d) (hst : t.status = Machine.statusWrite d s.status)
  | drop (v : Word) (hw : WritesReg s .cmd v) (hb : s.status.busy = true)
      (hst : t.status = { s.status with dropped := true })
  | accept (v : Word) (op : Mode) (hw : WritesReg s .cmd v) (hb : s.status.busy = false)
      (hop : modeOf v = some op) (hv : (operands op s).Valid (addrLimit s.platform))
      (hl : t.latch = some (operands op s))
      (hst : t.status = { s.status with busy := true, done := false, err := false, errCode := 0#4 })
  | reject (v : Word) (e : ErrCause) (hw : WritesReg s .cmd v) (hb : s.status.busy = false)
      (hst : t.status = { s.status with done := false, err := true, errCode := e.code })

/-- A command that reaches the block in a step is dropped, accepted or rejected. -/
theorem statusStep_of_cmdWrite {s t : State} {v : Word} (hw : WritesReg s .cmd v)
    (hst : t.status = (cmdWrite v (popTurn s)).status) (hl : t.latch = (cmdWrite v (popTurn s)).latch) :
    StatusStep s t := by
  rcases cmdWrite_cases v (popTurn s) with ⟨hb, h⟩ | ⟨hb, L, hv, h⟩ | ⟨hb, e, _, h⟩
  · exact .drop v hw hb (by rw [hst, h]; rfl)
  · obtain ⟨op, hop, rfl, hvalid⟩ := validate_ok hv
    exact .accept v op hw hb hop hvalid (by rw [hl, h]; rfl) (by rw [hst, h]; rfl)
  · exact .reject v e hw hb (by rw [hst, h]; rfl)

theorem statusStep_of_hostBus {s t : State} {x : Option Temp} {a : Access} (hm : nextMove s = .host (.bus x a))
    (h : hostBus x a (popTurn s) = .next t) : StatusStep s t := by
  rcases hostBus_cases h with ⟨i, u, hi, hu, rfl⟩ | ⟨_, rfl⟩ | ⟨_, rfl⟩
  · obtain ⟨r, _, ho, ⟨_, rfl⟩ | ⟨hd, rfl⟩⟩ := decode_instr hi
    · obtain ⟨w, hr⟩ := exec_decodeRead r (popTurn s)
      cases hr.symm.trans hu
      exact .same (advance_loadTemp_status ..)
    · have hw : WritesReg s r a.data := ⟨x, a, hm, hd, ho, rfl⟩
      by_cases hc : r = .cmd
      · subst hc
        cases (exec_decodeCommand a.data (popTurn s)).symm.trans hu
        exact statusStep_of_cmdWrite hw (advance_loadTemp_status ..) (advance_loadTemp_latch ..)
      by_cases hs : r = .status
      · subst hs
        cases hu
        exact .statusWrite a.data hw (advance_loadTemp_status ..)
      exact .same (by rw [advance_loadTemp_status, exec_decodeWrite_status hc hs hu, popTurn_status])
  · exact .same (by simp)
  · exact .same rfl

/-- Every step is one of these to STATUS. -/
theorem statusStep_of_step {s t : State} (h : step s = .next t) : StatusStep s t := by
  obtain ⟨_, h⟩ := step_cases h
  cases hm : nextMove s with
  | reset => rw [hm] at h; cases h; exact .reset hm rfl
  | idle => rw [hm] at h; cases h; exact .same rfl
  | engine =>
    rw [hm] at h; cases h
    rcases engineStep_cases (popTurn s) with ⟨_, he⟩ | ⟨L, _, he | ⟨bs, _, he⟩ | he⟩
    · exact .same (by rw [he]; rfl)
    · exact .busError hm (by rw [he]; rfl)
    · exact .done hm (by rw [he]; rfl)
    · exact .same (by rw [he]; rfl)
  | host x =>
    rw [hm] at h
    by_cases hx : ∃ t a, x = .bus t a
    · obtain ⟨y, a, rfl⟩ := hx
      exact statusStep_of_hostBus hm h
    · exact .same (by rw [hostStmt_frame (fun t a he => hx ⟨t, a, he⟩) h]; rfl)

/-! Configuration writes and the engine. -/

/-- `s` with the configuration registers, IRQ_EN and the bus answer of `c`. -/
def State.withConfig (s c : State) : State :=
  { s with
    irqEn := c.irqEn, srcBase := c.srcBase, srcW := c.srcW, srcH := c.srcH, ch := c.ch, dstBase := c.dstBase
    dstW := c.dstW, dstH := c.dstH, resp := c.resp }

/-- The engine works from LATCH, and neither reads nor writes a configuration register (10_state.md R38). -/
theorem engineStep_withConfig (s c : State) : engineStep (s.withConfig c) = (engineStep s).withConfig c := by
  unfold engineStep
  rw [show (s.withConfig c).latch = s.latch from rfl]
  cases s.latch with
  | none => rfl
  | some L =>
    show runCommand L (s.withConfig c) = (runCommand L s).withConfig c
    unfold runCommand
    rw [show accessRefused (s.withConfig c) L = accessRefused s L from rfl,
      show readsUndefined (s.withConfig c) L = readsUndefined s L from rfl,
      show (s.withConfig c).mem = s.mem from rfl]
    cases accessRefused s L
    · cases readsUndefined s L
      · cases results s.mem L (sampleNumbers L) <;> rfl
      · rfl
    · rfl

end Sys2Proof.Machine
end

section
/-! SUPPORT. Each agent's move keeps the invariant (10_state.md R44). -/

namespace Sys2Proof.Machine

/-- The invariant speaks of STATUS, LATCH, sample memory, the base registers and the platform only. -/
theorem Inv.frame {s t : State} (h : Inv s)
    (ht : t = { t with
      status := s.status, latch := s.latch, mem := s.mem, srcBase := s.srcBase, dstBase := s.dstBase
      platform := s.platform }) : Inv t := by
  rw [ht]
  exact ⟨h.latch_busy, h.status, h.latch_valid, h.mem, h.src_base, h.dst_base⟩

theorem Inv.popTurn {s : State} (h : Inv s) : Inv (popTurn s) := h.frame rfl

theorem Inv.advance {s : State} (h : Inv s) : Inv (advance s) := h.frame rfl

theorem Inv.recordFault {s : State} (h : Inv s) (f : Fault) : Inv (recordFault f s) := h.frame rfl

theorem Inv.loadTemp {s : State} (h : Inv s) (t : Option Temp) : Inv (loadTemp t s) :=
  h.frame (by rw [loadTemp_eq])

theorem Inv.reservedAccess {s : State} (h : Inv s) (d : Dir) : Inv (reservedAccess d s) := by
  cases d <;> exact h.frame rfl

theorem Inv.setMem {s : State} (h : Inv s) {m : Mem} (hm : m.InSpace (addrLimit s.platform)) : Inv (s.setMem m) where
  latch_busy := h.latch_busy
  status := h.status
  latch_valid := h.latch_valid
  mem := hm
  src_base := h.src_base
  dst_base := h.dst_base

/-! STATUS stays legal (10_state.md R27, 40_resize.md R100, R104). -/

theorem Status.Legal.statusWrite {st : Status} (h : st.Legal) (d : Word) : (statusWrite d st).Legal := by
  obtain ⟨hbusy, hdone, hcode, hle⟩ := h
  rw [statusWrite_eq]
  cases d.getLsbD 2 <;> simp_all [Status.Legal]

/-- A completion finds ERR = 0, because BUSY was 1. -/
theorem Status.Legal.doneFlags {st : Status} (h : st.Legal) (hb : st.busy = true) : (doneFlags st).Legal := by
  obtain ⟨hbusy, _, hcode, hle⟩ := h
  exact ⟨nofun, fun _ => (hbusy hb).2, hcode, hle⟩

/-- A completion with a bus error finds DONE = 0, because BUSY was 1. -/
theorem Status.Legal.busErrorFlags {st : Status} (h : st.Legal) (hb : st.busy = true) :
    (busErrorFlags st).Legal := by
  obtain ⟨hbusy, _⟩ := h
  have hdone := (hbusy hb).1
  exact ⟨nofun, fun hd => (by cases hdone.symm.trans hd), ⟨nofun, nofun⟩, ErrCause.busError.code_le_seven⟩

/-! The instructions. -/

/-- A CMD write loads LATCH and raises BUSY together, with a record that passed the checks, or does neither. -/
theorem Inv.cmdWrite {s : State} (h : Inv s) (v : Word) : Inv (cmdWrite v s) := by
  rcases cmdWrite_cases v s with ⟨_, hc⟩ | ⟨_, L, hv, hc⟩ | ⟨hb, e, _, hc⟩ <;> rw [hc]
  · exact ⟨h.latch_busy, h.status, h.latch_valid, h.mem, h.src_base, h.dst_base⟩
  · obtain ⟨op, _, rfl, hvalid⟩ := validate_ok hv
    have hst : Status.Legal { s.status with busy := true, done := false, err := false, errCode := 0#4 } :=
      ⟨fun _ => ⟨rfl, rfl⟩, fun _ => rfl, ⟨fun _ => rfl, fun _ => rfl⟩, Nat.zero_le _⟩
    exact ⟨rfl, hst, fun _ hL => (by cases hL; exact hvalid), h.mem, h.src_base, h.dst_base⟩
  · have hst : Status.Legal { s.status with done := false, err := true, errCode := e.code } :=
      ⟨fun ht => (by cases hb.symm.trans ht), nofun, ⟨nofun, fun hz => absurd hz e.code_ne_zero⟩,
        e.code_le_seven⟩
    exact ⟨h.latch_busy, hst, h.latch_valid, h.mem, h.src_base, h.dst_base⟩

theorem Inv.exec {i : Instr} {s t : State} (h : Inv s) (hi : exec i s = .next t) : Inv t := by
  cases i with
  | resizeNn => cases hi; exact (h.cmdWrite _).frame rfl
  | resizeBl => cases hi; exact (h.cmdWrite _).frame rfl
  | regWrCmd v => cases hi; exact (h.cmdWrite v).frame rfl
  | regWrStatus d =>
    cases hi
    exact ⟨h.latch_busy.trans (by rw [statusWrite_eq]; rfl), h.status.statusWrite d, h.latch_valid, h.mem,
      h.src_base, h.dst_base⟩
  | regWrSrcBase d =>
    cases hi
    exact ⟨h.latch_busy, h.status, h.latch_valid, h.mem, addrField_lt _ d, h.dst_base⟩
  | regWrDstBase d =>
    cases hi
    exact ⟨h.latch_busy, h.status, h.latch_valid, h.mem, h.src_base, addrField_lt _ d⟩
  | _ => cases hi; exact h.frame rfl

/-! The host. -/

theorem Inv.hostBus {x : Option Temp} {a : Access} {s t : State} (h : Inv s) (hb : hostBus x a s = .next t) :
    Inv t := by
  rcases hostBus_cases hb with ⟨i, u, _, hu, rfl⟩ | ⟨_, rfl⟩ | ⟨_, rfl⟩
  · exact ((h.exec hu).loadTemp x).advance
  · exact ((h.reservedAccess a.dir).loadTemp x).advance
  · exact h.frame rfl

theorem Inv.hostWrite {s : State} (h : Inv s) (a : Nat) (bs : List Byte) : Inv (hostWrite a bs s) := by
  obtain ⟨m, hm, hw | ⟨f, hw⟩⟩ := hostWrite_cases a bs s <;> rw [hw]
  · exact h.setMem (hm h.mem)
  · exact (h.setMem (hm h.mem)).recordFault f

/-- Of the host's statements, WRMEM alone writes sample memory. -/
theorem hostStmt_mem {x : Stmt} {s t : State} (hx : ∀ a bs, x ≠ .wrmem a bs) (h : hostStmt x s = .next t) :
    t.mem = s.mem := by
  cases x with
  | bus y a =>
    rcases hostBus_cases h with ⟨i, u, _, hu, rfl⟩ | ⟨_, rfl⟩ | ⟨_, rfl⟩
    · rw [loadTemp_eq, exec_frame hu]; rfl
    · rw [loadTemp_eq]; cases a.dir <;> rfl
    · rfl
  | wrmem a bs => exact absurd rfl (hx a bs)
  | rdmem y a =>
    cases h
    rcases hostRead_cases y a.toNat s with ⟨_, _, _, hr⟩ | ⟨_, hr⟩ <;> rw [hr] <;> rfl
  | bset y b l =>
    simp only [hostStmt] at h
    split at h
    · obtain ⟨_, _, rfl⟩ := jump_cases h; rfl
    · cases h; rfl
  | bclr y b l =>
    simp only [hostStmt] at h
    split at h
    · cases h; rfl
    · obtain ⟨_, _, rfl⟩ := jump_cases h; rfl
  | fence => cases h; rfl
  | halt => cases h; rfl
  | label l => cases h; rfl

theorem Inv.hostStmt {x : Stmt} {s t : State} (h : Inv s) (hx : hostStmt x s = .next t) : Inv t := by
  by_cases hbus : ∃ y a, x = .bus y a
  · obtain ⟨y, a, rfl⟩ := hbus
    exact h.hostBus hx
  by_cases hwr : ∃ a bs, x = .wrmem a bs
  · obtain ⟨a, bs, rfl⟩ := hwr
    cases hx
    exact (h.hostWrite a.toNat bs).advance
  have hmem : t.mem = s.mem := hostStmt_mem (fun a bs he => hwr ⟨a, bs, he⟩) hx
  have hframe := hostStmt_frame (fun y a he => hbus ⟨y, a, he⟩) hx
  rw [hmem] at hframe
  exact h.frame (by rw [hframe])

/-! The engine and the reset. -/

theorem Inv.endWithBusError {s : State} {L : Latch} (h : Inv s) (hL : s.latch = some L) :
    Inv (endWithBusError L s) where
  latch_busy := rfl
  status := h.status.busErrorFlags (by rw [← h.latch_busy, hL]; rfl)
  latch_valid := nofun
  mem := undefRange_inSpace h.mem _ _
  src_base := h.src_base
  dst_base := h.dst_base

theorem Inv.endWithDone {s : State} {L : Latch} {bs : List Byte} (h : Inv s) (hL : s.latch = some L)
    (hbs : bs.length = L.dst.size) : Inv (endWithDone L bs s) where
  latch_busy := rfl
  status := h.status.doneFlags (by rw [← h.latch_busy, hL]; rfl)
  latch_valid := nofun
  mem := by
    obtain ⟨_, _, _, hdst, _⟩ := h.latch_valid L hL
    exact fillRange_inSpace h.mem (by rw [hbs]; exact hdst)
  src_base := h.src_base
  dst_base := h.dst_base

theorem Inv.engineStep {s : State} (h : Inv s) : Inv (engineStep s) := by
  rcases engineStep_cases s with ⟨_, he⟩ | ⟨L, hL, he | ⟨bs, hbs, he⟩ | he⟩ <;> rw [he]
  · exact h
  · exact h.endWithBusError hL
  · exact h.endWithDone hL (by simpa [sampleNumbers] using results_length hbs)
  · exact h.recordFault _

theorem memAfterReset_inSpace {s : State} {limit : Nat} (h : s.mem.InSpace limit) :
    (memAfterReset s).InSpace limit := by
  unfold memAfterReset
  split
  · exact undefRange_inSpace h _ _
  · exact h

theorem Status.Legal.reset : Status.reset.Legal := by decide

theorem Inv.blockReset {s : State} (h : Inv s) : Inv (blockReset s) where
  latch_busy := rfl
  status := Status.Legal.reset
  latch_valid := nofun
  mem := memAfterReset_inSpace h.mem
  src_base := Nat.two_pow_pos _
  dst_base := Nat.two_pow_pos _

theorem Inv.perform {m : Move} {s t : State} (h : Inv s) (hm : perform m s = .next t) : Inv t := by
  cases m with
  | reset => cases hm; exact h.blockReset
  | engine => cases hm; exact h.engineStep
  | host x => exact h.hostStmt hm
  | idle => cases hm; exact h

theorem Inv.reset : Inv State.reset where
  latch_busy := rfl
  status := Status.Legal.reset
  latch_valid := nofun
  mem := ⟨reset_mem_wf, nofun⟩
  src_base := Nat.two_pow_pos _
  dst_base := Nat.two_pow_pos _

end Sys2Proof.Machine
end

section
/-! PROOFS. The statements of 10_state.md: the invariant (R44), ID (R23), STATUS and IRQ (R25 to R28, R40, R41),
CMD_LATCH (R36), the reserved offsets (R37) and LATCH (R38). -/

open Sys2Proof Sys2Proof.Machine

/-- Settles O47: whichever agent moves keeps the invariant. -/
theorem stepKeepsTheInvariant : Obligations.StepKeepsTheInvariant := by
  intro s t hs h
  obtain ⟨_, hmove⟩ := step_cases h
  exact hs.popTurn.perform hmove

/-- Settles O48: no field of the invariant needs more than the reset values. -/
theorem resetMeetsTheInvariant : Obligations.ResetMeetsTheInvariant := Inv.reset

/-- Settles O11: neither meaning looks at the state's registers. -/
theorem idIsAConstant : Obligations.IdIsAConstant := fun _ _ => ⟨rfl, rfl, by decide, by decide⟩

/-- Settles O45: IRQ is computed from STATUS and IRQ_EN, and a reset leaves no flag of STATUS pending. -/
theorem irqIsTheEnabledPendingFlags : Obligations.IrqIsTheEnabledPendingFlags :=
  ⟨fun _ => rfl, irq_eq_false_of_reset rfl, fun s => irq_eq_false_of_reset (blockReset_status s)⟩

/-- Settles O9: the step is the reserved access with the host's part around it. -/
theorem reservedOffsetsReadZero : Obligations.ReservedOffsetsReadZero := by
  intro s t a hf hm hsize halign hres
  have hstep : step s = .next (advance (loadTemp t (reservedAccess a.dir (popTurn s)))) := by
    rw [step_of_safe hf, hm]
    exact hostBus_reserved _ (decode_reserved hsize halign hres)
  constructor <;> intro hd <;> rw [hstep, hd] <;> cases t <;> rfl

/-- Settles O16: the three command instructions are the CMD writes of their words. -/
theorem cmdLatchKeepsTheLastCommand : Obligations.CmdLatchKeepsTheLastCommand :=
  ⟨fun s v => ⟨_, rfl, cmdWrite_cmdLatch v s⟩, fun s => ⟨_, rfl, cmdWrite_cmdLatch _ s⟩,
    fun s => ⟨_, rfl, cmdWrite_cmdLatch _ s⟩, fun _ _ => rfl, fun _ => rfl, rfl, fun _ => rfl⟩

/-- Settles O44: the engine's step commutes with any change of the configuration registers, and leaves the ones it
finds to the write that follows it. -/
theorem configurationWritesDoNotReachTheEngine : Obligations.ConfigurationWritesDoNotReachTheEngine := by
  intro s d i hi
  have hwrite : ∃ c, exec i s = .next (s.withConfig c)
      ∧ exec i (engineStep s) = .next ((engineStep s).withConfig c) := by
    rw [engineStep_frame]
    rcases hi with rfl | rfl | rfl | rfl | rfl | rfl
    · exact ⟨respondAck (s.setIrqEn (lowThree d)), rfl, rfl⟩
    · exact ⟨respondAck (s.setSrcBase (addrField s.platform.addrWidth d)), rfl, rfl⟩
    · exact ⟨respondAck (s.setSrcDim (lowHalf d) (highHalf d)), rfl, rfl⟩
    · exact ⟨respondAck (s.setCh (lowThree d)), rfl, rfl⟩
    · exact ⟨respondAck (s.setDstBase (addrField s.platform.addrWidth d)), rfl, rfl⟩
    · exact ⟨respondAck (s.setDstDim (lowHalf d) (highHalf d)), rfl, rfl⟩
  obtain ⟨c, hs, he⟩ := hwrite
  exact ⟨_, hs, by rw [he, engineStep_withConfig]⟩

/-- Settles O50: of the moves that write STATUS, an acceptance alone raises BUSY, and the engine and the reset lower
it. -/
theorem busyFollowsAcceptanceAndCompletion : Obligations.BusyFollowsAcceptanceAndCompletion := by
  refine ⟨fun s t h hs ht => ?_, fun s t h hs ht => ?_, rfl⟩
  · cases statusStep_of_step h with
    | accept v op hw _ hop hv hl _ =>
      obtain ⟨x, a, hm, hd, ho, rfl⟩ := hw
      exact ⟨x, a, op, hm, ⟨hd, ho, hop⟩, hv, hl⟩
    | statusWrite d _ hst => rw [hst, statusWrite_eq, hs] at ht; cases ht
    | _ => simp_all [Status.reset]
  · cases statusStep_of_step h with
    | reset hm _ => exact .inr hm
    | done hm _ => exact .inl hm
    | busError hm _ => exact .inl hm
    | statusWrite d _ hst => rw [hst, statusWrite_eq, hs] at ht; cases ht
    | _ => simp_all

/-- Settles O51: of the moves that write STATUS, a dropped command alone raises DROPPED, and a STATUS write and the
reset alone lower it. -/
theorem droppedIsSticky : Obligations.DroppedIsSticky := by
  refine ⟨fun s v hb => ⟨_, rfl, ?_⟩, fun s t h hs ht => ?_, fun s t h hs ht => ?_, rfl⟩
  · rw [cmdWrite_busy hb]; rfl
  · cases statusStep_of_step h with
    | drop v hw hb _ =>
      obtain ⟨x, a, hm, hd, ho, _⟩ := hw
      exact ⟨hb, x, a, hm, hd, ho⟩
    | statusWrite d _ hst => rw [hst, statusWrite_eq, hs] at ht; cases ht
    | _ => simp_all [Status.reset]
  · cases statusStep_of_step h with
    | reset hm _ => exact .inl hm
    | statusWrite d hw hst =>
      obtain ⟨x, a, hm, hd, ho, rfl⟩ := hw
      exact .inr ⟨x, a, hm, hd, ho, by simpa [hst, statusWrite_eq, hs] using ht⟩
    | _ => simp_all

/-- Settles O52: of the moves that write STATUS, the two completions and the rejected command alone set DONE or ERR;
the reset, a STATUS write and a command that finds BUSY = 0 clear them. -/
theorem doneAndErrFollowTheirRules : Obligations.DoneAndErrFollowTheirRules := by
  intro s t h
  have hcmd {v : Word} (hb : s.status.busy = false) (hw : WritesReg s .cmd v) :
      s.status.busy = false ∧ ∃ (x : Option Temp) (a : Access),
        nextMove s = .host (.bus x a) ∧ a.dir = .write ∧ a.off = 0x004#12 := by
    obtain ⟨x, a, hm, hd, ho, _⟩ := hw
    exact ⟨hb, x, a, hm, hd, ho⟩
  cases statusStep_of_step h with
  | same hst => simp_all
  | reset hm hst => simp_all [Status.reset]
  | done hm hst => simp_all
  | busError hm hst => simp_all
  | statusWrite d hw hst =>
    obtain ⟨x, a, hm, hd, ho, rfl⟩ := hw
    have hbit (b : Nat) (hb : a.data.getLsbD b = true) : ∃ (y : Option Temp) (c : Access),
        nextMove s = .host (.bus y c) ∧ c.dir = .write ∧ c.off = 0x008#12 ∧ c.data.getLsbD b = true :=
      ⟨x, a, hm, hd, ho, hb⟩
    rw [hst, statusWrite_eq]
    exact ⟨by simp_all, by simp_all, fun h1 h0 => .inr (.inr (hbit 1 (by simpa [h1] using h0))),
      fun h1 h0 => .inr (.inr (hbit 2 (by simpa [h1] using h0)))⟩
  | drop v _ _ hst => simp_all
  | accept v op hw hb _ _ _ hst =>
    exact ⟨by simp [hst], by simp [hst], fun _ _ => .inr (.inl (hcmd hb hw)),
      fun _ _ => .inr (.inl (hcmd hb hw))⟩
  | reject v e hw hb hst =>
    exact ⟨by simp [hst], fun _ _ => .inr (hcmd hb hw), fun _ _ => .inr (.inl (hcmd hb hw)),
      fun _ _ => .inr (.inl (hcmd hb hw))⟩

end

section
/-! SUPPORT. Host accesses that raise a fault, the bytes an engine step writes, and the addresses a command forms
(20_memory.md R64, R66, R68, R76). -/

namespace Sys2Proof.Machine

/-! Accesses to the window that are no aligned word (20_memory.md R64). -/

theorem not_aligned_iff (a : Access) : a.aligned = false ↔ a.size ≠ .word ∨ a.off.toNat % 4 ≠ 0 := by
  rw [← Bool.not_eq_true, aligned_iff, not_and_or]

theorem decode_eq_accessSize_iff (a : Access) : decode a = .accessSize ↔ a.aligned = false := by
  unfold decode
  cases a.aligned
  · simp
  · cases regAt a.off with
    | none => simp
    | some r => cases a.dir <;> simp

/-- A narrow, wide or misaligned access: a bus error and the fault, and the host moves on. -/
theorem hostBus_accessSize {t : Option Temp} {a : Access} (s : State) (h : decode a = .accessSize) :
    hostBus t a s = .next (advance (recordFault .regAccessSize (respondError s))) := by
  simp [hostBus, h]

/-! The bytes of a register word (20_memory.md R62). -/

theorem regByte_getLsbD (w : Word) (k : Fin 4) {j : Nat} (hj : j < 8) :
    (regByte w k).getLsbD j = w.getLsbD (8 * k.val + j) := by
  simp [regByte, hj]

theorem regByte_toNat (w : Word) (k : Fin 4) : (regByte w k).toNat = w.toNat / 2 ^ (8 * k.val) % 256 := by
  simp [regByte, Nat.shiftRight_eq_div_pow]

/-! What the engine's step does to sample memory (20_memory.md R66). -/

theorem Buffer.not_between_of_outside {b : Buffer} {a : Nat} (h : a < b.base ∨ b.stop ≤ a) :
    ¬(b.base ≤ a ∧ a < b.base + b.size) := by
  rcases h with h | h
  · exact fun hin => Nat.not_le.mpr h hin.1
  · exact fun hin => Nat.not_le.mpr hin.2 h

/-- Neither completion writes outside the destination, and UNINIT_READ writes nothing. -/
theorem readByte_engineStep {s : State} {a : Nat}
    (h : ∀ L, s.latch = some L → a < L.dst.base ∨ L.dst.stop ≤ a) :
    readByte (engineStep s).mem a = readByte s.mem a := by
  rcases engineStep_cases s with ⟨_, he⟩ | ⟨L, hL, he | ⟨bs, hbs, he⟩ | he⟩ <;> rw [he]
  · exact (readByte_undefRange ..).trans (if_neg (Buffer.not_between_of_outside (h L hL)))
  · have hlen : bs.length = L.dst.size := by simpa [sampleNumbers] using results_length hbs
    refine (readByte_fillRange ..).trans (if_neg ?_)
    rw [hlen]
    exact Buffer.not_between_of_outside (h L hL)
  · rfl

/-! The addresses a command forms (20_memory.md R68, 40_resize.md R112). -/

theorem Latch.Valid.src_pos {limit : Nat} {L : Latch} (h : L.Valid limit) : 0 < L.src.w ∧ 0 < L.src.h := by
  obtain ⟨⟨hsw, hsh, _, _⟩, _⟩ := h
  exact ⟨BitVec.toNat_pos_of_ne_zero hsw, BitVec.toNat_pos_of_ne_zero hsh⟩

/-- Every source byte that a plan names is a sample of the source, in both modes. -/
theorem planAt_tap_bounds {limit : Nat} {L : Latch} (h : L.Valid limit) {p : Coord} (hx : p.dx < L.dst.w)
    (hy : p.dy < L.dst.h) (hc : p.c < L.src.c) {t : Tap} (ht : t ∈ (planAt L p).taps) :
    L.src.base ≤ t.addr ∧ t.addr < L.src.stop := by
  obtain ⟨hw, hh⟩ := h.src_pos
  unfold planAt at ht
  split at ht
  · obtain rfl := List.mem_singleton.mp ht
    exact Buffer.addr_bounds (nearestIndex_lt hx hw) (nearestIndex_lt hy hh) hc
  · have hx0 := axis_i0_lt hx hw
    have hx1 := axis_i1_lt (d := p.dx) (dd := L.dst.w) hw
    have hy0 := axis_i0_lt hy hh
    have hy1 := axis_i1_lt (d := p.dy) (dd := L.dst.h) hh
    simp only [bilinearPlan, List.mem_cons, List.not_mem_nil, or_false] at ht
    rcases ht with rfl | rfl | rfl | rfl
    · exact Buffer.addr_bounds hx0 hy0 hc
    · exact Buffer.addr_bounds hx1 hy0 hc
    · exact Buffer.addr_bounds hx0 hy1 hc
    · exact Buffer.addr_bounds hx1 hy1 hc

/-- The taps of a destination byte lie in the source region. -/
theorem plan_tap_bounds {limit : Nat} {L : Latch} (h : L.Valid limit) {k : Nat} (hk : k < L.dst.size)
    {t : Tap} (ht : t ∈ (plan L k).taps) : L.src.base ≤ t.addr ∧ t.addr < L.src.stop := by
  have hpos : 0 < L.dst.w * L.dst.h * L.dst.c := Nat.zero_lt_of_lt hk
  have hw : 0 < L.dst.w := Nat.pos_of_mul_pos_right (Nat.pos_of_mul_pos_right hpos)
  obtain ⟨hx, hy, hc⟩ := Buffer.coord_bounds hw (Nat.pos_of_mul_pos_left hpos) hk
  exact planAt_tap_bounds h hx hy hc ht

/-- A command whose regions the platform admits has no refused access (20_memory.md R76). -/
theorem accessRefused_eq_false {s : State} {L : Latch} {limit : Nat} (h : L.Valid limit)
    (ha : RegionsAdmitted s.platform L) : accessRefused s L = false := by
  obtain ⟨hread, hwrite⟩ := ha
  simp only [accessRefused, List.any_eq_false, sampleNumbers, List.mem_range]
  intro k hk
  have htaps : ∀ t ∈ (plan L k).taps, memAdmits s.platform t.addr .read = true := fun t ht =>
    hread _ (plan_tap_bounds h hk ht).1 (plan_tap_bounds h hk ht).2
  have hdst : memAdmits s.platform (L.dst.base + k) .write = true :=
    hwrite _ (Nat.le_add_right ..) (Nat.add_lt_add_left hk _)
  simpa [hdst] using fun t ht hn => absurd (htaps t ht) (by simp [hn])

/-- An undefined byte of a tap whose weight is not 0 is read (20_memory.md R66). -/
theorem readsUndefined_eq_true {s : State} {L : Latch} {k : Nat} (hk : k < L.dst.size) {t : Tap}
    (ht : t ∈ (plan L k).taps) (hw : t.weight ≠ 0) (hb : readByte s.mem t.addr = none) :
    readsUndefined s L = true :=
  List.any_eq_true.mpr ⟨k, List.mem_range.mpr hk,
    List.any_eq_true.mpr ⟨t, ht, by simp [hb, readsTap, hw]⟩⟩

/-- With no access refused and an undefined byte read, the engine records UNINIT_READ and does nothing else
(20_memory.md R76). -/
theorem engineStep_uninitRead {s : State} {L : Latch} (hL : s.latch = some L) (ha : accessRefused s L = false)
    (hu : readsUndefined s L = true) : engineStep s = recordFault .uninitRead s := by
  simp [engineStep, hL, runCommand, ha, hu]

/-- A region past the address space fails the range check, where the checks before it pass (60_exceptions.md
R161). -/
theorem checkOperands_outOfRange {limit : Nat} {L : Latch} (hs : L.sw ≠ 0#16 ∧ L.sh ≠ 0#16)
    (hc : L.ch = 1#3 ∨ L.ch = 3#3 ∨ L.ch = 4#3) (hd : L.dw ≠ 0#16 ∧ L.dh ≠ 0#16)
    (hr : limit < L.src.stop ∨ limit < L.dst.stop) : checkOperands limit L = some .outOfRange := by
  unfold checkOperands
  rw [if_neg (not_or.mpr hs), if_neg (not_not.mpr hc), if_neg (not_or.mpr hd), if_pos hr]

theorem validate_of_check {v : Word} {s : State} {op : Mode} {e : ErrCause} (hop : modeOf v = some op)
    (h : checkOperands (addrLimit s.platform) (operands op s) = some e) : validate v s = .error e := by
  simp [validate, hop, h]

/-- A command that fails a check while BUSY = 0 leaves ERR = 1 and the check's code. -/
theorem cmdWrite_error {v : Word} {s : State} {e : ErrCause} (hb : s.status.busy = false)
    (h : validate v s = .error e) :
    (cmdWrite v s).status = { s.status with done := false, err := true, errCode := e.code } := by
  simp [cmdWrite, hb, accept_of_error h]

/-! The moves that change sample memory (20_memory.md R66, R67). -/

theorem perform_mem {m : Move} {s t : State} (he : m ≠ .engine) (hr : m ≠ .reset)
    (hw : ∀ a bs, m ≠ .host (.wrmem a bs)) (h : perform m s = .next t) : t.mem = s.mem := by
  cases m with
  | reset => exact absurd rfl hr
  | engine => exact absurd rfl he
  | host x => exact hostStmt_mem (fun a bs hx => hw a bs (by rw [hx])) h
  | idle => cases h; rfl

/-! Host accesses to sample memory that raise a fault (20_memory.md R60, R64). -/

theorem hostAccessFault_noSuchAddress {s : State} {a : Nat} (d : Dir) (h : addrLimit s.platform ≤ a) :
    hostAccessFault s d a = some .noSuchAddress := by
  simp [hostAccessFault, h]

theorem hostAccessFault_window {s : State} {a : Nat} (d : Dir) (ha : a < addrLimit s.platform)
    (h : inWindow s.platform a = true) : hostAccessFault s d a = some .regAccessSize := by
  simp [hostAccessFault, Nat.not_le.mpr ha, h]

theorem hostRead_fault {t : Temp} {a : Nat} {s : State} {f : Fault} (h : hostAccessFault s .read a = some f) :
    hostRead t a s = recordFault f s := by
  simp [hostRead, h]

end Sys2Proof.Machine
end

section
/-! PROOFS. The statements of 20_memory.md: the bytes of a register word (R62), access sizes (R64), what changes
sample memory (R66, R67), addresses (R60, R68) and undefined bytes (R76). -/

open Sys2Proof Sys2Proof.Machine

/-- Settles O5: each byte is a digit of the word in base 256. -/
theorem registerBytesAreLittleEndian : Obligations.RegisterBytesAreLittleEndian := by
  intro w
  refine ⟨fun k j hj => regByte_getLsbD w k hj, ?_⟩
  have h0 : (regByte w 0).toNat = w.toNat / 1 % 256 := regByte_toNat w 0
  have h1 : (regByte w 1).toNat = w.toNat / 256 % 256 := regByte_toNat w 1
  have h2 : (regByte w 2).toNat = w.toNat / 65536 % 256 := regByte_toNat w 2
  have h3 : (regByte w 3).toNat = w.toNat / 16777216 % 256 := regByte_toNat w 3
  have hw := w.isLt
  omega

/-- Settles O8: the decoder answers `accessSize` exactly for the accesses that are no aligned word. -/
theorem narrowOrMisalignedAccessIsABusError : Obligations.NarrowOrMisalignedAccessIsABusError := by
  constructor
  · intro s t a hf hm ha
    have hd : decode a = .accessSize := (decode_eq_accessSize_iff a).mpr ((not_aligned_iff a).mpr ha)
    rw [step_of_safe hf, hm, perform, hostStmt, hostBus_accessSize _ hd, ← hf]
    rfl
  · intro a hs ho hd
    have hn := (decode_eq_accessSize_iff a).mp hd
    rw [(aligned_iff a).mpr ⟨hs, ho⟩] at hn
    cases hn

/-- Settles O28: the step is the engine's, after the schedule's entry is used. -/
theorem engineChangesOnlyTheDestination : Obligations.EngineChangesOnlyTheDestination := by
  intro s t hm h
  obtain ⟨_, hmove⟩ := step_cases h
  rw [hm] at hmove
  cases hmove
  exact ⟨fun a ha => readByte_engineStep (s := popTurn s) ha, engineStep_frame (popTurn s)⟩

/-- Settles O31: no access is refused, because every tap lies in the source, and the undefined byte is read. -/
theorem undefinedSourceRecordsUninitRead : Obligations.UndefinedSourceRecordsUninitRead := by
  rintro s L hf hm hL hv ha ⟨k, hk, t, ht, hw, hb⟩
  have hrefused : accessRefused (popTurn s) L = false := accessRefused_eq_false hv ha
  have hundef : readsUndefined (popTurn s) L = true := readsUndefined_eq_true hk ht hw hb
  rw [step_of_safe hf, hm, perform, engineStep_uninitRead (s := popTurn s) hL hrefused hundef, ← hf]
  rfl

/-- Settles O41: a running command's record passed the range check, and no address leaves its region. -/
theorem noAddressWraps : Obligations.NoAddressWraps := by
  constructor
  · intro s L hi hL k hk
    have hv : L.Valid (addrLimit s.platform) := hi.latch_valid L hL
    have ⟨_, _, hsrc, hdst, _⟩ := hv
    have hbyte : L.dst.base + k < L.dst.stop := Nat.add_lt_add_left hk _
    exact ⟨hbyte.trans_le hdst, fun t ht => (plan_tap_bounds hv hk ht).2.trans_le hsrc⟩
  · intro s hb hsw hsh hdw hdh hc hr
    have hch : s.ch = 1#3 ∨ s.ch = 3#3 ∨ s.ch = 4#3 :=
      hc.imp BitVec.eq_of_toNat_eq (Or.imp BitVec.eq_of_toNat_eq BitVec.eq_of_toNat_eq)
    have hcheck (op : Mode) : checkOperands (addrLimit s.platform) (operands op s) = some .outOfRange :=
      checkOperands_outOfRange
        ⟨(BitVec.ne_of_lt hsw).symm, (BitVec.ne_of_lt hsh).symm⟩ hch
        ⟨(BitVec.ne_of_lt hdw).symm, (BitVec.ne_of_lt hdh).symm⟩ hr
    have hrej {v : Word} {op : Mode} (hop : modeOf v = some op) :
        (respondAck (cmdWrite v s)).status.err = true ∧ (respondAck (cmdWrite v s)).status.errCode = 0x3#4 := by
      have hst := cmdWrite_error hb (validate_of_check hop (hcheck op))
      exact ⟨congrArg Status.err hst, congrArg Status.errCode hst⟩
    exact ⟨⟨_, rfl, hrej modeOf_one⟩, ⟨_, rfl, hrej modeOf_two⟩⟩

/-- Settles O53: every other move leaves the list of defined bytes as it was. -/
theorem memoryChangesOnlyBy : Obligations.MemoryChangesOnlyBy := by
  intro s t a h hne
  obtain ⟨_, hmove⟩ := step_cases h
  by_contra hno
  simp only [not_or, not_exists] at hno
  obtain ⟨he, hr, hw⟩ := hno
  have hmem : t.mem = s.mem := perform_mem (s := popTurn s) he hr hw hmove
  exact hne (by rw [hmem])

/-- Settles O56: WRMEM stores the bytes that raise no fault and stops at the first that does, and RDMEM is one such
access. -/
theorem hostAccessOffSampleMemoryRecordsAFault : Obligations.HostAccessOffSampleMemoryRecordsAFault := by
  intro s t a v hf stopped limit
  refine ⟨fun hm => ?_, fun pre post hm => ?_⟩
  · have hread {f : Fault} (h : hostAccessFault (popTurn s) .read a.toNat = some f) :
        step s = .next (stopped s.mem f) := by
      rw [step_of_safe hf, hm, perform, hostStmt, hostRead_fault h]
      simp only [stopped, ← hf]
      rfl
    exact ⟨fun h => hread (hostAccessFault_noSuchAddress _ h),
      fun h hw => hread (hostAccessFault_window _ h hw)⟩
  · intro b hpre
    have hnone : ∀ k, k < pre.length → hostAccessFault (popTurn s) .write (a.toNat + k) = none := fun k hk => by
      obtain ⟨hlt, hwin, hreg⟩ := hpre k hk
      exact hostAccessFault_write_none hlt hwin hreg
    obtain ⟨m, hstore, hin, hout, hnil⟩ := hostWrite_append (v :: post) hnone
    have hwrite {f : Fault} (h : hostAccessFault ((popTurn s).setMem m) .write b = some f) :
        step s = .next (stopped m f) := by
      rw [step_of_safe hf, hm, perform, hostStmt, hstore, hostWrite_fault h]
      simp only [stopped, ← hf]
      rfl
    exact ⟨m, fun h => hwrite (hostAccessFault_noSuchAddress _ h),
      fun h hw => hwrite (hostAccessFault_window _ h hw), hin, hout, hnil⟩
end

section
/-! SUPPORT. The decoder inverts the encoder, the host's branches and accesses to sample memory that raise no fault,
and illegal command words (30_encoding.md R80 to R83, R86). -/

namespace Sys2Proof.Machine

/-! The encoder and the decoder (30_encoding.md R80 to R83). -/

theorem decodeCommand_eq_regWrCmd {d : Word} (h : WellFormed (.regWrCmd d) = true) :
    decodeCommand d = .regWrCmd d := by
  obtain ⟨h1, h2⟩ : d ≠ 0x00000001#32 ∧ d ≠ 0x00000002#32 := by simpa [WellFormed] using h
  rw [decodeCommand, if_neg h1, if_neg h2]

/-- Each instruction is the decoder's reading of the register access that encodes it. -/
theorem decode_encode {i : Instr} (h : WellFormed i = true) : decode (encode i) = .instr i := by
  cases i with
  | resizeNn => exact decode_writeOf .cmd 0x00000001#32
  | resizeBl => exact decode_writeOf .cmd 0x00000002#32
  | regWrCmd d => exact (decode_writeOf .cmd d).trans (congrArg Decoded.instr (decodeCommand_eq_regWrCmd h))
  | regRdId => exact decode_readOf .id
  | regRdCmd => exact decode_readOf .cmd
  | regRdStatus => exact decode_readOf .status
  | regRdIrqEn => exact decode_readOf .irqEn
  | regRdSrcBase => exact decode_readOf .srcBase
  | regRdSrcDim => exact decode_readOf .srcDim
  | regRdSrcCh => exact decode_readOf .srcCh
  | regRdDstBase => exact decode_readOf .dstBase
  | regRdDstDim => exact decode_readOf .dstDim
  | regRdCmdLatch => exact decode_readOf .cmdLatch
  | regWrId d => exact decode_writeOf .id d
  | regWrStatus d => exact decode_writeOf .status d
  | regWrIrqEn d => exact decode_writeOf .irqEn d
  | regWrSrcBase d => exact decode_writeOf .srcBase d
  | regWrSrcDim d => exact decode_writeOf .srcDim d
  | regWrSrcCh d => exact decode_writeOf .srcCh d
  | regWrDstBase d => exact decode_writeOf .dstBase d
  | regWrDstDim d => exact decode_writeOf .dstDim d
  | regWrCmdLatch d => exact decode_writeOf .cmdLatch d

/-- A command word decodes to a well-formed instruction that encodes as the CMD write of that word. -/
theorem decodeCommand_wellFormed_encode (w : Word) :
    WellFormed (decodeCommand w) = true ∧ encode (decodeCommand w) = writeOf .cmd w := by
  unfold decodeCommand
  split
  · next h => subst h; exact ⟨rfl, rfl⟩
  · next h1 =>
    split
    · next h2 => subst h2; exact ⟨rfl, rfl⟩
    · next h2 => exact ⟨by simp [WellFormed, h1, h2], rfl⟩

theorem decodeRead_wellFormed_encode (r : Reg) :
    WellFormed (decodeRead r) = true ∧ encode (decodeRead r) = readOf r := by
  cases r <;> exact ⟨rfl, rfl⟩

theorem decodeWrite_wellFormed_encode (r : Reg) (d : Word) :
    WellFormed (decodeWrite r d) = true ∧ encode (decodeWrite r d) = writeOf r d := by
  cases r with
  | cmd => exact decodeCommand_wellFormed_encode d
  | _ => exact ⟨rfl, rfl⟩

theorem readOf_eq {a : Access} {r : Reg} (hd : a.dir = .read) (hs : a.size = .word) (ho : a.off = r.off) :
    readOf r = { a with data := 0#32 } := by
  rw [readOf, hd, hs, ho]

theorem writeOf_eq {a : Access} {r : Reg} (hd : a.dir = .write) (hs : a.size = .word) (ho : a.off = r.off) :
    writeOf r a.data = a := by
  rw [writeOf, ← hd, ← hs, ← ho]

/-! The host's statements (30_encoding.md R86). -/

theorem step_of_host {s : State} {x : Stmt} (hf : s.faults = []) (hm : nextMove s = .host x) :
    step s = hostStmt x (popTurn s) := by
  rw [step_of_safe hf, hm, perform]

theorem hostBus_instr {t : Option Temp} {a : Access} {i : Instr} (s : State) (h : decode a = .instr i) :
    hostBus t a s = onNext (exec i s) (fun u => advance (loadTemp t u)) := by
  rw [hostBus, h]

/-- The branch that is taken when the bit is `v`: BSET or BCLR. -/
def branchOn (v : Bool) (t : Temp) (b : Fin 32) (l : Label) : Stmt :=
  match v with
  | true  => .bset t b l
  | false => .bclr t b l

theorem hostStmt_branchOn_taken {v : Bool} {t : Temp} {b : Fin 32} {s : State} (l : Label)
    (h : (s.host.temps.get t).getLsbD b = v) : hostStmt (branchOn v t b l) s = jump l s := by
  cases v with
  | true => exact if_pos h
  | false => exact if_neg (Bool.eq_false_iff.mp h)

theorem hostStmt_branchOn_not_taken {v : Bool} {t : Temp} {b : Fin 32} {s : State} (l : Label)
    (h : (s.host.temps.get t).getLsbD b ≠ v) : hostStmt (branchOn v t b l) s = .next (advance s) := by
  cases v with
  | true => exact if_neg h
  | false => exact if_pos (Bool.ne_false_iff.mp h)

theorem jump_of_labelAt {l : Label} {s : State} {i : Nat} (h : labelAt l s.host.prog = some i) :
    jump l s = .next (s.setHost { s.host with pc := i }) := by
  rw [jump, h]

theorem jump_of_undefined {l : Label} {s : State} (h : labelAt l s.host.prog = none) :
    jump l s = .refused (.undefinedLabel l) := by
  rw [jump, h]

/-- With no model fault on its way, `WRMEM` stores all its bytes and writes nothing else. -/
theorem hostWrite_of_no_fault {a : Nat} {bs : List Byte} {s : State}
    (h : ∀ k, k < bs.length → hostAccessFault s .write (a + k) = none) :
    ∃ m, hostWrite a bs s = s.setMem m
      ∧ (∀ k, k < bs.length → readByte m (a + k) = bs[k]?)
      ∧ ∀ c, c < a ∨ a + bs.length ≤ c → readByte m c = readByte s.mem c := by
  obtain ⟨m, hstore, hin, hout, _⟩ := hostWrite_append [] h
  rw [List.append_nil] at hstore
  exact ⟨m, hstore, hin, hout⟩

theorem hostRead_defined {t : Temp} {a : Nat} {s : State} {v : Byte} (hf : hostAccessFault s .read a = none)
    (hv : readByte s.mem a = some v) : hostRead t a s = setTemp t (BitVec.setWidth 32 v) s := by
  simp [hostRead, hf, hv]

theorem hostRead_undefined {t : Temp} {a : Nat} {s : State} (hf : hostAccessFault s .read a = none)
    (hv : readByte s.mem a = none) : hostRead t a s = recordFault .uninitRead s := by
  simp [hostRead, hf, hv]

/-! Illegal command words (30_encoding.md R82). -/

theorem validate_illegal {v : Word} (h1 : v ≠ 0x00000001#32) (h2 : v ≠ 0x00000002#32) (s : State) :
    validate v s = .error .illegalCommand := by
  simp [validate, modeOf_illegal h1 h2]

/-- A command that fails a check while BUSY = 0 writes STATUS and CMD_LATCH only (60_exceptions.md R164). -/
theorem cmdWrite_of_error {v : Word} {s : State} {e : ErrCause} (hb : s.status.busy = false)
    (h : validate v s = .error e) :
    cmdWrite v s = { s with
      cmdLatch := v
      status := { busy := false, done := false, err := true, dropped := s.status.dropped, errCode := e.code } } := by
  simp [cmdWrite, hb, accept_of_error h]

end Sys2Proof.Machine
end

section
/-! PROOFS. The statements of 30_encoding.md: the encoder and the decoder (R80 to R83), pseudo-instructions and worked
encodings (R87, R88), illegal words (R82), and the host's statements (R86). -/

open Sys2Proof Sys2Proof.Machine

/-- Settles O1: an instruction's encoding is the access of one register, which the decoder finds by its offset. -/
theorem decodeReadsBackEveryEncoding : Obligations.DecodeReadsBackEveryEncoding := fun _ => decode_encode

/-- Settles O2: an access that stands for an instruction is an aligned word access of one register, and the decoder's
reading of that access encodes to it. -/
theorem decodedAccessIsTheEncoding : Obligations.DecodedAccessIsTheEncoding := by
  intro a i h
  obtain ⟨r, hs, ho, ⟨hd, rfl⟩ | ⟨hd, rfl⟩⟩ := decode_instr h
  · obtain ⟨hwf, henc⟩ := decodeRead_wellFormed_encode r
    exact ⟨hwf, fun hw => (by cases hd.symm.trans hw), fun _ => henc.trans (readOf_eq hd hs ho)⟩
  · obtain ⟨hwf, henc⟩ := decodeWrite_wellFormed_encode r a.data
    exact ⟨hwf, fun _ => henc.trans (writeOf_eq hd hs ho), fun hr => (by cases hd.symm.trans hr)⟩

/-- Settles O57: no byte raises a model fault, so all of them are stored in the one step. -/
theorem hostWriteStoresItsBytes : Obligations.HostWriteStoresItsBytes := by
  intro s a bs hf hm hend hwin hreg
  have hnone : ∀ k, k < bs.length → hostAccessFault (popTurn s) .write (a.toNat + k) = none := fun k hk =>
    hostAccessFault_write_none (s := popTurn s) ((Nat.add_lt_add_left hk _).trans_le hend) (hwin k hk)
      fun L hL => hreg k L hk hL
  obtain ⟨m, hstore, hin, hout⟩ := hostWrite_of_no_fault hnone
  have hstep : step s = .next (advance ((popTurn s).setMem m)) := by
    rw [step_of_host hf hm, hostStmt, hstore]
  exact ⟨_, hstep, hin, hout, rfl⟩

/-- Settles O58: the access raises no fault of its own, so the byte at the address decides. -/
theorem hostReadLoadsTheByte : Obligations.HostReadLoadsTheByte := by
  intro s t a hf hm hlt hwin hreg
  have hnone : hostAccessFault (popTurn s) .read a.toNat = none :=
    hostAccessFault_read_none (s := popTurn s) hlt hwin hreg
  constructor
  · intro v hv
    rw [step_of_host hf hm, hostStmt, hostRead_defined (s := popTurn s) hnone hv]
    rfl
  · intro hv
    rw [step_of_host hf hm, hostStmt, hostRead_undefined (s := popTurn s) hnone hv, ← hf]
    rfl

/-- Settles O3: the rule's examples are closed terms, and the two illegal words are no mode's. -/
theorem workedEncodings : Obligations.WorkedEncodings :=
  ⟨rfl, by decide, by decide, decode_writeOf .cmd 0x00000002#32, decode_writeOf .srcDim 0x00010002#32,
    modeOf_illegal (by decide) (by decide), modeOf_illegal (by decide) (by decide)⟩

/-- Settles O4: the expansions are the definitions, and RESIZE.NN and RESIZE.BL do the CMD writes of their words. -/
theorem pseudoInstructionsExpand : Obligations.PseudoInstructionsExpand :=
  ⟨rfl, rfl, fun _ _ _ _ => rfl, fun _ _ _ => rfl, fun _ _ => rfl, rfl, fun _ => ⟨rfl, rfl⟩⟩

/-- Settles O6: the step is the host's access, and the access is exec with the host's part around it. -/
theorem stepRunsTheDecodedInstruction : Obligations.StepRunsTheDecodedInstruction := by
  intro s t a i hf hm hd
  rw [step_of_host hf hm, hostStmt, hostBus_instr _ hd]

/-- Settles O10: BSET and BCLR are the branches on a set and on a clear bit, and a taken one goes where its label
stands first. -/
theorem hostControlStatements : Obligations.HostControlStatements := by
  intro s t b l hf goTo branchIf
  have hbranch {v : Bool} (h : branchIf v) : step s = hostStmt (branchOn v t b l) (popTurn s) := by
    rcases h with ⟨rfl, hm⟩ | ⟨rfl, hm⟩ <;> exact step_of_host hf hm
  have htaken {v : Bool} (h : branchIf v) (hv : (s.host.temps.get t).getLsbD b = v) :
      step s = jump l (popTurn s) :=
    (hbranch h).trans (hostStmt_branchOn_taken (s := popTurn s) l hv)
  refine ⟨fun v h hv => ?_, fun v i h hv hi hfirst => ?_, fun v h hv hl => ?_, fun hm => ?_, fun hm => ?_⟩
  · exact (hbranch h).trans (hostStmt_branchOn_not_taken (s := popTurn s) l hv)
  · exact (htaken h hv).trans (jump_of_labelAt (s := popTurn s) (labelAt_of_first hi hfirst))
  · exact (htaken h hv).trans (jump_of_undefined (s := popTurn s) (labelAt_of_not_mem hl))
  · rcases hm with hm | hm <;> exact step_of_host hf hm
  · exact step_of_host hf hm

/-- Settles O19: an illegal word is no mode's, so it fails the first check where BUSY = 0. -/
theorem illegalWordIsRejected : Obligations.IllegalWordIsRejected := by
  intro s v h1 h2
  have hexec : exec (.regWrCmd v) s = .next (respondAck (cmdWrite v s)) := rfl
  constructor
  · intro hb
    rw [hexec, cmdWrite_of_error hb (validate_illegal h1 h2 s)]
    rfl
  · intro hb
    rw [hexec, cmdWrite_busy hb]
    rfl
end

section
/-! SUPPORT. The arithmetic of a sample: the scaled coordinate of an axis, and what a plan gives for the bytes its taps
find (40_resize.md R102, R103, R106 to R111). -/

namespace Sys2Proof.Machine

/-! Coordinates (40_resize.md R103, R106, R107). -/

theorem nearestIndex_self {d s : Nat} (hd : d < s) : nearestIndex d s s = d :=
  Nat.mul_div_cancel d (Nat.zero_lt_of_lt hd)

theorem axisScale_fst (d s dd : Nat) : (axisScale d s dd).1 = if dd = 1 then 0 else d * (s - 1) := by
  unfold axisScale; split <;> rfl

theorem axisScale_snd (d s dd : Nat) : (axisScale d s dd).2 = if dd = 1 then 1 else dd - 1 := by
  unfold axisScale; split <;> rfl

/-- `Axis`, field by field, as R103 writes it. -/
theorem axis_eq (d s dd : Nat) :
    axis d s dd =
      let n := if dd = 1 then 0 else d * (s - 1)
      let a := if dd = 1 then 1 else dd - 1
      { i0 := n / a, i1 := min (n / a + 1) (s - 1), r := n % a, a := a } := by
  simp only [axis, axisScale_fst, axisScale_snd]

theorem axis_a_pos {d s dd : Nat} (hd : d < dd) : 0 < (axis d s dd).a := axisScale_pos hd

theorem axis_a_le {d s dd : Nat} (h : dd ≤ 65535) : (axis d s dd).a ≤ 65534 := by
  rw [axis_eq]
  dsimp only
  split <;> omega

/-- From `dd = 2` on, `i0` and `r` are quotient and remainder of `d * (s - 1)` over `dd - 1`. -/
theorem axis_of_two_le {d s dd : Nat} (h : 2 ≤ dd) :
    (axis d s dd).a = dd - 1 ∧ (axis d s dd).i0 = d * (s - 1) / (dd - 1)
      ∧ (axis d s dd).r = d * (s - 1) % (dd - 1) := by
  rw [axis_eq]
  simp only [if_neg (show dd ≠ 1 by omega), and_self]

/-- With equal dimensions every coordinate is its own first neighbour, with weight 0 for the second. -/
theorem axis_self {d s : Nat} (hd : d < s) : (axis d s s).i0 = d ∧ (axis d s s).r = 0 := by
  by_cases hs : s = 1
  · subst hs
    obtain rfl := Nat.lt_one_iff.mp hd
    exact ⟨rfl, rfl⟩
  · obtain ⟨_, hi, hr⟩ := axis_of_two_le (d := d) (s := s) (dd := s) (by omega)
    exact ⟨by rw [hi, Nat.mul_div_cancel _ (by omega)], by rw [hr, Nat.mul_mod_left]⟩

/-! Weights (40_resize.md R103, R108, R109). -/

/-- The weighted sum `S` of four neighbours at the positions `x` and `y`. -/
def blendSum (x y : AxisPos) (p00 p10 p01 p11 : Nat) : Nat :=
  (x.a - x.r) * (y.a - y.r) * p00 + x.r * (y.a - y.r) * p10 + (x.a - x.r) * y.r * p01 + x.r * y.r * p11

/-- The four weights add up to the divisor. -/
theorem blend_weights_sum {x y : AxisPos} (hx : x.r ≤ x.a) (hy : y.r ≤ y.a) :
    (x.a - x.r) * (y.a - y.r) + x.r * (y.a - y.r) + (x.a - x.r) * y.r + x.r * y.r = x.a * y.a := by
  calc _ = (x.a - x.r + x.r) * (y.a - y.r + y.r) := by ring
    _ = x.a * y.a := by rw [Nat.sub_add_cancel hx, Nat.sub_add_cancel hy]

theorem blendSum_le {x y : AxisPos} (hx : x.r ≤ x.a) (hy : y.r ≤ y.a) {m p00 p10 p01 p11 : Nat}
    (h00 : p00 ≤ m) (h10 : p10 ≤ m) (h01 : p01 ≤ m) (h11 : p11 ≤ m) :
    blendSum x y p00 p10 p01 p11 ≤ m * (x.a * y.a) := by
  calc blendSum x y p00 p10 p01 p11 ≤ blendSum x y m m m m := by unfold blendSum; gcongr
    _ = m * ((x.a - x.r) * (y.a - y.r) + x.r * (y.a - y.r) + (x.a - x.r) * y.r + x.r * y.r) := by
      unfold blendSum; ring
    _ = m * (x.a * y.a) := by rw [blend_weights_sum hx hy]

/-- The quotient of `S` is no more than the largest neighbour: it needs no clamp (40_resize.md R109). -/
theorem blendSum_div_le {x y : AxisPos} (hx : x.r ≤ x.a) (hy : y.r ≤ y.a) {m p00 p10 p01 p11 : Nat}
    (h00 : p00 ≤ m) (h10 : p10 ≤ m) (h01 : p01 ≤ m) (h11 : p11 ≤ m) :
    blendSum x y p00 p10 p01 p11 / (x.a * y.a) ≤ m :=
  Nat.div_le_of_le_mul (by rw [Nat.mul_comm]; exact blendSum_le hx hy h00 h10 h01 h11)

/-- Over the rationals, `S` over the divisor is the blend with the fractions `r / a` (40_resize.md R108). -/
theorem blendSum_div_cast {x y : AxisPos} (hx : x.r < x.a) (hy : y.r < y.a) (p00 p10 p01 p11 : Nat) :
    (blendSum x y p00 p10 p01 p11 : ℚ) / ((x.a * y.a : Nat) : ℚ)
      = (1 - x.r / x.a) * (1 - y.r / y.a) * p00 + x.r / x.a * (1 - y.r / y.a) * p10
        + (1 - x.r / x.a) * (y.r / y.a) * p01 + x.r / x.a * (y.r / y.a) * p11 := by
  have hxa : (x.a : ℚ) ≠ 0 := Nat.cast_ne_zero.mpr (Nat.ne_zero_of_lt hx)
  have hya : (y.a : ℚ) ≠ 0 := Nat.cast_ne_zero.mpr (Nat.ne_zero_of_lt hy)
  simp only [blendSum, Nat.cast_add, Nat.cast_mul, Nat.cast_sub hx.le, Nat.cast_sub hy.le]
  field_simp

/-! Samples of a plan. -/

theorem tapSum_cons_of_defined {m : Mem} {t : Tap} {v : Byte} (r : List Tap) (h : readByte m t.addr = some v) :
    tapSum m (t :: r) = (tapSum m r).map (t.weight * v.toNat + ·) := by
  simp only [tapSum, h]
  split
  · next hw => simp [hw]
  · cases tapSum m r <;> rfl

/-- Where every tap that counts reads `v`, the weighted sum is `v` times the sum of the weights. -/
theorem tapSum_of_constant {m : Mem} {v : Byte} {ts : List Tap}
    (h : ∀ t ∈ ts, t.weight ≠ 0 → readByte m t.addr = some v) :
    tapSum m ts = some ((ts.map Tap.weight).sum * v.toNat) := by
  induction ts with
  | nil => simp [tapSum]
  | cons t r ih =>
    have hr := ih fun u hu => h u (List.mem_cons_of_mem _ hu)
    by_cases hw : t.weight = 0
    · simp [tapSum, hw, hr]
    · rw [tapSum_cons_of_defined r (h t List.mem_cons_self hw), hr, Option.map_some, List.map_cons, List.sum_cons,
        Nat.add_mul]

theorem tapSum_congr {m n : Mem} {ts : List Tap} (h : ∀ t ∈ ts, readByte m t.addr = readByte n t.addr) :
    tapSum m ts = tapSum n ts := by
  induction ts with
  | nil => rfl
  | cons t r ih =>
    simp only [tapSum, h t List.mem_cons_self, ih fun u hu => h u (List.mem_cons_of_mem _ hu)]

theorem sampleOf_congr {m n : Mem} {p : SamplePlan} (h : ∀ t ∈ p.taps, readByte m t.addr = readByte n t.addr) :
    sampleOf m p = sampleOf n p := by
  simp only [sampleOf, tapSum_congr h]

/-- A plan whose weights add up to its divisor gives `v` where every tap that counts reads `v`. -/
theorem sampleOf_of_constant {m : Mem} {p : SamplePlan} {v : Byte} (hd : 0 < p.divisor)
    (hw : (p.taps.map Tap.weight).sum = p.divisor)
    (h : ∀ t ∈ p.taps, t.weight ≠ 0 → readByte m t.addr = some v) : sampleOf m p = some v := by
  simp only [sampleOf, tapSum_of_constant h, hw, Nat.mul_div_cancel_left _ hd, BitVec.ofNat_toNat,
    BitVec.setWidth_eq]

/-- RESIZE.NN's sample is its one source byte, copied (40_resize.md R102). -/
theorem sampleOf_nearestPlan (m : Mem) (L : Latch) (p : Coord) :
    sampleOf m (nearestPlan L p)
      = readByte m (L.src.addr (nearestIndex p.dx L.src.w L.dst.w) (nearestIndex p.dy L.src.h L.dst.h) p.c) := by
  simp only [sampleOf, nearestPlan, tapSum, one_ne_zero, if_false]
  cases readByte m _ with
  | none => rfl
  | some v => simp

/-- RESIZE.BL's sample is `S div (ax * ay)` of its four source bytes (40_resize.md R103). -/
theorem sampleOf_bilinearPlan {m : Mem} {L : Latch} {p : Coord} {p00 p10 p01 p11 : Byte} {x y : AxisPos}
    (hx : axis p.dx L.src.w L.dst.w = x) (hy : axis p.dy L.src.h L.dst.h = y)
    (h00 : readByte m (L.src.addr x.i0 y.i0 p.c) = some p00) (h10 : readByte m (L.src.addr x.i1 y.i0 p.c) = some p10)
    (h01 : readByte m (L.src.addr x.i0 y.i1 p.c) = some p01) (h11 : readByte m (L.src.addr x.i1 y.i1 p.c) = some p11) :
    sampleOf m (bilinearPlan L p)
      = some (BitVec.ofNat 8 (blendSum x y p00.toNat p10.toNat p01.toNat p11.toNat / (x.a * y.a))) := by
  subst hx hy
  have hsum : tapSum m (bilinearPlan L p).taps = some (blendSum (axis p.dx L.src.w L.dst.w)
      (axis p.dy L.src.h L.dst.h) p00.toNat p10.toNat p01.toNat p11.toNat) := by
    rw [bilinearPlan, tapSum_cons_of_defined _ h00, tapSum_cons_of_defined _ h10, tapSum_cons_of_defined _ h01,
      tapSum_cons_of_defined _ h11]
    simp only [tapSum, Option.map_some, blendSum, Nat.add_zero, Nat.add_assoc]
  rw [sampleOf, hsum]
  rfl

/-! The taps of a plan, in both modes. -/

theorem planAt_of_nearest {L : Latch} (h : L.op = .nearest) (p : Coord) : planAt L p = nearestPlan L p := by
  rw [planAt, h]

theorem planAt_of_bilinear {L : Latch} (h : L.op = .bilinear) (p : Coord) : planAt L p = bilinearPlan L p := by
  rw [planAt, h]

/-- Every tap of a destination sample is a source sample of the same channel (40_resize.md R112, R113). -/
theorem planAt_tap_addr {limit : Nat} {L : Latch} (h : L.Valid limit) {p : Coord} (hx : p.dx < L.dst.w)
    (hy : p.dy < L.dst.h) {t : Tap} (ht : t ∈ (planAt L p).taps) :
    ∃ x y, x < L.src.w ∧ y < L.src.h ∧ t.addr = L.src.addr x y p.c := by
  obtain ⟨hw, hh⟩ := h.src_pos
  unfold planAt at ht
  split at ht
  · obtain rfl := List.mem_singleton.mp ht
    exact ⟨_, _, nearestIndex_lt hx hw, nearestIndex_lt hy hh, rfl⟩
  · simp only [bilinearPlan, List.mem_cons, List.not_mem_nil, or_false] at ht
    rcases ht with rfl | rfl | rfl | rfl
    · exact ⟨_, _, axis_i0_lt hx hw, axis_i0_lt hy hh, rfl⟩
    · exact ⟨_, _, axis_i1_lt hw, axis_i0_lt hy hh, rfl⟩
    · exact ⟨_, _, axis_i0_lt hx hw, axis_i1_lt hh, rfl⟩
    · exact ⟨_, _, axis_i1_lt hw, axis_i1_lt hh, rfl⟩

/-- The weights of a sample add up to its divisor, which is not 0. -/
theorem planAt_weights {L : Latch} {p : Coord} (hx : p.dx < L.dst.w) (hy : p.dy < L.dst.h) :
    0 < (planAt L p).divisor ∧ ((planAt L p).taps.map Tap.weight).sum = (planAt L p).divisor := by
  unfold planAt
  split
  · exact ⟨Nat.one_pos, rfl⟩
  · refine ⟨Nat.mul_pos (axis_a_pos hx) (axis_a_pos hy), ?_⟩
    have hsum := blend_weights_sum (axis_r_lt (s := L.src.w) hx).le (axis_r_lt (s := L.src.h) hy).le
    simpa [bilinearPlan, ← Nat.add_assoc] using hsum

/-- With equal dimensions, every tap that counts is the source sample of the same coordinates (40_resize.md R110). -/
theorem planAt_identity_tap {L : Latch} {p : Coord} (hw : L.dst.w = L.src.w) (hh : L.dst.h = L.src.h)
    (hx : p.dx < L.src.w) (hy : p.dy < L.src.h) {t : Tap} (ht : t ∈ (planAt L p).taps) (hwt : t.weight ≠ 0) :
    t.addr = L.src.addr p.dx p.dy p.c := by
  unfold planAt at ht
  split at ht
  · obtain rfl := List.mem_singleton.mp ht
    simp only [hw, hh, nearestIndex_self hx, nearestIndex_self hy]
  · obtain ⟨hxi, hxr⟩ := axis_self hx
    obtain ⟨hyi, hyr⟩ := axis_self hy
    simp only [bilinearPlan, hw, hh, hxi, hxr, hyi, hyr, List.mem_cons, List.not_mem_nil, or_false] at ht
    rcases ht with rfl | rfl | rfl | rfl
    · rfl
    all_goals exact absurd (by simp) hwt

end Sys2Proof.Machine
end

section
/-! SUPPORT. Accepting a command, and the three ways the engine's step goes once it is known which accesses are refused
and which bytes are defined (40_resize.md R100, R101, R104). -/

namespace Sys2Proof.Machine

/-! The command (40_resize.md R100, R101). -/

theorem exec_next (i : Instr) (s : State) : ∃ t, exec i s = .next t := by
  cases i <;> exact ⟨_, rfl⟩

/-- The registers pass R161's checks, written over naturals, exactly when the operands make a valid record. -/
theorem operands_valid {s : State} (op : Mode) (h : ValidSetup s) : (operands op s).Valid (addrLimit s.platform) := by
  obtain ⟨hsw, hsh, hdw, hdh, hch, hsrc, hdst, hdisj⟩ := h
  exact ⟨⟨(BitVec.ne_of_lt hsw).symm, (BitVec.ne_of_lt hsh).symm, (BitVec.ne_of_lt hdw).symm,
      (BitVec.ne_of_lt hdh).symm⟩,
    hch.imp BitVec.eq_of_toNat_eq (Or.imp BitVec.eq_of_toNat_eq BitVec.eq_of_toNat_eq), hsrc, hdst, hdisj.symm⟩

/-- A command that finds BUSY = 0 and a valid setup is accepted (40_resize.md R100). -/
theorem cmdWrite_of_validSetup {v : Word} {s : State} {op : Mode} (hop : modeOf v = some op)
    (hb : s.status.busy = false) (h : ValidSetup s) :
    cmdWrite v s = { s with
      cmdLatch := v, latch := some (operands op s)
      status := { busy := true, done := false, err := false, dropped := s.status.dropped, errCode := 0#4 } } := by
  simp [cmdWrite, hb, accept_of_ok (validate_of_valid hop (operands_valid op h))]

/-- A write's answer on the bus carries no value for a temporary. -/
theorem loadTemp_respondAck (x : Option Temp) (s : State) : loadTemp x (respondAck s) = respondAck s := by
  cases x <;> rfl

/-- The host's step with a CMD write as its statement. -/
theorem step_cmdWrite {s : State} {x : Option Temp} {v : Word} (hf : s.faults = [])
    (hm : nextMove s = .host (.bus x (writeOf .cmd v))) :
    step s = .next (advance (respondAck (cmdWrite v (popTurn s)))) := by
  have hd : decode (writeOf .cmd v) = .instr (decodeCommand v) := decode_writeOf .cmd v
  rw [step_of_host hf hm, hostStmt, hostBus_instr _ hd, exec_decodeCommand, onNext_next, loadTemp_respondAck]

/-- The state after a host's step that got the command `v`, of mode `op`, accepted. -/
def State.accepted (s : State) (v : Word) (op : Mode) : State :=
  { s with
    resp := .ack
    sched := s.sched.tail
    host := { s.host with pc := s.host.pc + 1 }
    cmdLatch := v
    latch := some (operands op s)
    status := { busy := true, done := false, err := false, dropped := s.status.dropped, errCode := 0#4 } }

theorem step_accepts {s : State} {x : Option Temp} {v : Word} {op : Mode} (hop : modeOf v = some op)
    (hf : s.faults = []) (hb : s.status.busy = false) (hv : ValidSetup s)
    (hm : nextMove s = .host (.bus x (writeOf .cmd v))) : step s = .next (s.accepted v op) := by
  rw [step_cmdWrite hf hm, cmdWrite_of_validSetup (s := popTurn s) hop hb hv]
  rfl

/-! The engine's step (40_resize.md R104). -/

theorem step_of_engine {s : State} (hf : s.faults = []) (hm : nextMove s = .engine) :
    step s = .next (engineStep (popTurn s)) := by
  rw [step_of_safe hf, hm, perform]

theorem accessRefused_of_write {s : State} {L : Latch} {k : Nat} (hk : k < L.dst.size)
    (h : memAdmits s.platform (L.dst.base + k) .write = false) : accessRefused s L = true :=
  List.any_eq_true.mpr ⟨k, List.mem_range.mpr hk, by simp [h]⟩

theorem accessRefused_of_read {s : State} {L : Latch} {k : Nat} (hk : k < L.dst.size) {t : Tap}
    (ht : t ∈ (plan L k).taps) (hw : t.weight ≠ 0) (h : memAdmits s.platform t.addr .read = false) :
    accessRefused s L = true := by
  have htap : ((plan L k).taps.any fun t => !memAdmits s.platform t.addr .read && readsTap s.ctr t) = true :=
    List.any_eq_true.mpr ⟨t, ht, by simp [h, readsTap, hw]⟩
  exact List.any_eq_true.mpr ⟨k, List.mem_range.mpr hk, by rw [htap, Bool.true_or]⟩

theorem engineStep_of_refused {s : State} {L : Latch} (hL : s.latch = some L) (ha : accessRefused s L = true) :
    engineStep s = endWithBusError L s := by
  simp [engineStep, hL, runCommand, ha]

/-- With no access refused and the source defined, the command ends with DONE: every tap lies in the source. -/
theorem engineStep_of_defined {s : State} {L : Latch} {limit : Nat} (hL : s.latch = some L) (hv : L.Valid limit)
    (hs : SourceDefined s L) (ha : accessRefused s L = false) :
    ∃ bs, results s.mem L (sampleNumbers L) = some bs ∧ engineStep s = endWithDone L bs s := by
  have htap : ∀ k < L.dst.size, ∀ t ∈ (plan L k).taps, (readByte s.mem t.addr).isSome = true := fun k hk t ht =>
    hs _ (plan_tap_bounds hv hk ht).1 (plan_tap_bounds hv hk ht).2
  have hundef : readsUndefined s L = false := by
    simp only [readsUndefined, List.any_eq_false, sampleNumbers, List.mem_range]
    intro k hk
    simpa using fun t ht hn => absurd (htap k hk t ht) (by simp [hn])
  obtain ⟨bs, hbs⟩ := Option.isSome_iff_exists.mp (results_isSome (m := s.mem) (L := L) (ks := sampleNumbers L)
    fun k hk => sampleOf_isSome fun t ht _ => htap k (List.mem_range.mp hk) t ht)
  exact ⟨bs, hbs, by simp [engineStep, hL, runCommand, ha, hundef, hbs]⟩

/-- Every sample of the source is defined. -/
theorem exists_sample {s : State} {L : Latch} (hs : SourceDefined s L) {x y c : Nat} (hx : x < L.src.w)
    (hy : y < L.src.h) (hc : c < L.src.c) : ∃ v, readByte s.mem (L.src.addr x y c) = some v :=
  Option.isSome_iff_exists.mp (hs _ (Buffer.addr_bounds hx hy hc).1 (Buffer.addr_bounds hx hy hc).2)

/-- The four neighbours of a bilinear sample are samples of the source, and give it its value (40_resize.md R103). -/
theorem exists_bilinear_sample {s : State} {L : Latch} {limit : Nat} (hv : L.Valid limit) (hs : SourceDefined s L)
    {p : Coord} {x y : AxisPos} (hax : axis p.dx L.src.w L.dst.w = x) (hay : axis p.dy L.src.h L.dst.h = y)
    (hx : p.dx < L.dst.w) (hy : p.dy < L.dst.h) (hc : p.c < L.src.c) :
    ∃ p00 p10 p01 p11 : Byte,
      readByte s.mem (L.src.addr x.i0 y.i0 p.c) = some p00
        ∧ readByte s.mem (L.src.addr x.i1 y.i0 p.c) = some p10
        ∧ readByte s.mem (L.src.addr x.i0 y.i1 p.c) = some p01
        ∧ readByte s.mem (L.src.addr x.i1 y.i1 p.c) = some p11
        ∧ sampleOf s.mem (bilinearPlan L p)
            = some (BitVec.ofNat 8 (blendSum x y p00.toNat p10.toNat p01.toNat p11.toNat / (x.a * y.a))) := by
  obtain ⟨hw, hh⟩ := hv.src_pos
  have hx0 : x.i0 < L.src.w := hax ▸ axis_i0_lt hx hw
  have hx1 : x.i1 < L.src.w := hax ▸ axis_i1_lt hw
  have hy0 : y.i0 < L.src.h := hay ▸ axis_i0_lt hy hh
  have hy1 : y.i1 < L.src.h := hay ▸ axis_i1_lt hh
  obtain ⟨p00, h00⟩ := exists_sample hs hx0 hy0 hc
  obtain ⟨p10, h10⟩ := exists_sample hs hx1 hy0 hc
  obtain ⟨p01, h01⟩ := exists_sample hs hx0 hy1 hc
  obtain ⟨p11, h11⟩ := exists_sample hs hx1 hy1 hc
  exact ⟨p00, p10, p01, p11, h00, h10, h01, h11, sampleOf_bilinearPlan hax hay h00 h10 h01 h11⟩

/-- The destination sample at a coordinate, after the engine wrote its bytes. -/
theorem readByte_destination_addr {m : Mem} {L : Latch} {bs : List Byte}
    (h : results m L (sampleNumbers L) = some bs) {dx dy c : Nat} (hx : dx < L.dst.w) (hy : dy < L.dst.h)
    (hc : c < L.dst.c) :
    readByte (fillRange m L.dst.base bs) (L.dst.addr dx dy c)
      = sampleOf m (planAt L { dx := dx, dy := dy, c := c }) := by
  obtain ⟨hbase, hstop⟩ := Buffer.addr_bounds hx hy hc
  have hk : L.dst.addr dx dy c - L.dst.base < L.dst.size := by simp only [Buffer.stop] at hstop; omega
  rw [← Nat.add_sub_cancel' hbase, readByte_destination h hk, plan, Buffer.coord_addr hx hc]

/-- The step from `s` completes the command `L` without error and leaves `t` (40_resize.md R104). -/
structure Completes (L : Latch) (s t : State) : Prop where
  step     : step s = .next t
  status   : t.status = { s.status with busy := false, done := true }
  latch    : t.latch = none
  faults   : t.faults = s.faults
  cmdLatch : t.cmdLatch = s.cmdLatch
  sample   : ∀ dx dy c, dx < L.dst.w → dy < L.dst.h → c < L.dst.c →
    readByte t.mem (L.dst.addr dx dy c) = sampleOf s.mem (planAt L { dx := dx, dy := dy, c := c })
  outside  : ∀ a, a < L.dst.base ∨ L.dst.stop ≤ a → readByte t.mem a = readByte s.mem a

/-- A running command whose source is defined and whose accesses are admitted completes when the engine moves. -/
theorem exists_completes {s : State} {L : Latch} (hf : s.faults = []) (hm : nextMove s = .engine)
    (hL : s.latch = some L) (hv : L.Valid (addrLimit s.platform)) (hs : SourceDefined s L)
    (ha : RegionsAdmitted s.platform L) : ∃ t, Completes L s t := by
  obtain ⟨bs, hbs, he⟩ := engineStep_of_defined (s := popTurn s) hL hv hs (accessRefused_eq_false hv ha)
  refine ⟨endWithDone L bs (popTurn s), ?_, rfl, rfl, rfl, rfl,
    fun dx dy c hx hy hc => readByte_destination_addr hbs hx hy hc, fun a hout => ?_⟩
  · rw [step_of_engine hf hm, he]
  · rw [← he]
    exact readByte_engineStep (s := popTurn s) fun M hM => by cases hL.symm.trans hM; exact hout

end Sys2Proof.Machine
end

section
/-! PROOFS. The statements of 40_resize.md: acceptance and drop (R100, R101), the samples and the completion (R102 to
R105), and the laws of the resize (R106 to R114). -/

open Sys2Proof Sys2Proof.Machine

/-- Settles O33: the host's step accepts the command, and the schedule being used up, the engine's step completes
it. -/
theorem resizeCommandEndToEnd : Obligations.ResizeCommandEndToEnd := by
  intro s op v x hop hf hsched hb hv hm hs ha
  have hnext : nextMove (s.accepted v op) = .engine := nextMove_busy rfl (congrArg List.tail hsched)
  obtain ⟨u, hu⟩ := exists_completes (s := s.accepted v op) hf hnext rfl (operands_valid op hv) hs ha
  exact ⟨_, u, step_accepts hop hf hb hv hm, hu.step, rfl, rfl, by rw [hu.status], by rw [hu.status],
    by rw [hu.status]; rfl, hu.faults.trans hf, hu.cmdLatch, hu.latch, hu.sample, hu.outside⟩

/-- Settles O26: the one tap of a nearest sample, copied. -/
theorem nearestResizeWritesItsSamples : Obligations.NearestResizeWritesItsSamples := by
  intro s L hf hm hL hop hv hs ha
  obtain ⟨t, ht⟩ := exists_completes hf hm hL hv hs ha
  refine ⟨t, ht.step, ht.status, ht.latch, fun dx dy c hx hy hc => ?_⟩
  exact (ht.sample dx dy c hx hy hc).trans (by rw [planAt_of_nearest hop, sampleOf_nearestPlan]; rfl)

/-- Settles O27: the four neighbours are samples of the source, so they are defined, and `Axis` gives their weights. -/
theorem bilinearResizeWritesItsSamples : Obligations.BilinearResizeWritesItsSamples := by
  intro s L hf hm hL hop hv hs ha
  obtain ⟨t, ht⟩ := exists_completes hf hm hL hv hs ha
  refine ⟨t, ht.step, ht.status, ht.latch, fun dx dy c hx hy hc => ?_⟩
  have hsample := exists_bilinear_sample (p := { dx := dx, dy := dy, c := c }) hv hs (axis_eq ..) (axis_eq ..) hx hy hc
  rw [← planAt_of_bilinear hop, ← ht.sample dx dy c hx hy hc] at hsample
  exact hsample

/-- Settles O38: every tap that counts is the sample of the same coordinates. -/
theorem identityResizeCopies : Obligations.IdentityResizeCopies := by
  intro s L hf hm hL hv hs ha hdw hdh
  have hw : L.dst.w = L.src.w := congrArg BitVec.toNat hdw
  have hh : L.dst.h = L.src.h := congrArg BitVec.toNat hdh
  obtain ⟨t, ht⟩ := exists_completes hf hm hL hv hs ha
  refine ⟨t, ht.step, by rw [ht.status], fun x y c hx hy hc => ?_⟩
  have hdx : x < L.dst.w := hw ▸ hx
  have hdy : y < L.dst.h := hh ▸ hy
  obtain ⟨v, hval⟩ := exists_sample hs hx hy hc
  obtain ⟨hpos, hsum⟩ := planAt_weights (L := L) (p := { dx := x, dy := y, c := c }) hdx hdy
  calc readByte t.mem (L.dst.addr x y c) = sampleOf s.mem (planAt L { dx := x, dy := y, c := c }) :=
        ht.sample x y c hdx hdy hc
    _ = some v := sampleOf_of_constant hpos hsum fun p hp hwt => by rw [planAt_identity_tap hw hh hx hy hp hwt, hval]
    _ = readByte s.mem (L.src.addr x y c) := hval.symm

/-- Settles O39: the taps of channel c all read `v`, and their weights add up to the divisor. -/
theorem constantImageStaysConstant : Obligations.ConstantImageStaysConstant := by
  intro s L c v hf hm hL hv hs ha hc hconst
  obtain ⟨t, ht⟩ := exists_completes hf hm hL hv hs ha
  refine ⟨t, ht.step, by rw [ht.status], fun dx dy hx hy => ?_⟩
  obtain ⟨hpos, hsum⟩ := planAt_weights (L := L) (p := { dx := dx, dy := dy, c := c }) hx hy
  refine (ht.sample dx dy c hx hy hc).trans (sampleOf_of_constant hpos hsum fun p hp _ => ?_)
  obtain ⟨x, y, hsx, hsy, haddr⟩ := planAt_tap_addr hv hx hy hp
  rw [haddr]
  exact hconst x y hsx hsy

/-- Settles O42: the taps of a sample are source samples of its channel, and the sources agree there. -/
theorem channelsAreIndependent : Obligations.ChannelsAreIndependent := by
  intro s1 s2 L c hf1 hm1 hL1 hv1 hs1 ha1 hf2 hm2 hL2 hv2 hs2 ha2 hagree
  obtain ⟨t1, ht1⟩ := exists_completes hf1 hm1 hL1 hv1 hs1 ha1
  obtain ⟨t2, ht2⟩ := exists_completes hf2 hm2 hL2 hv2 hs2 ha2
  refine ⟨t1, t2, ht1.step, ht2.step, fun dx dy hx hy hc => ?_⟩
  rw [ht1.sample dx dy c hx hy hc, ht2.sample dx dy c hx hy hc]
  refine sampleOf_congr fun p hp => ?_
  obtain ⟨x, y, hsx, hsy, haddr⟩ := planAt_tap_addr hv1 hx hy hp
  rw [haddr]
  exact hagree x y hsx hsy

/-- Settles O30: one refused access is enough for the completion with a bus error. -/
theorem refusedAccessEndsWithBusError : Obligations.RefusedAccessEndsWithBusError := by
  intro s L hf hm hL href
  have hacc : accessRefused (popTurn s) L = true := by
    rcases href with ⟨k, hk, h⟩ | ⟨k, hk, p, hp, hw, h⟩
    · exact accessRefused_of_write hk h
    · exact accessRefused_of_read hk hp hw h
  refine ⟨_, by rw [step_of_engine hf hm, engineStep_of_refused (s := popTurn s) hL hacc], rfl, rfl,
    fun a hb hs => ?_, fun a hout => ?_⟩
  · exact (readByte_undefRange ..).trans (if_pos ⟨hb, hs⟩)
  · exact (readByte_undefRange ..).trans (if_neg (Buffer.not_between_of_outside hout))

/-- Settles O32: BUSY = 1 means a validated record in LATCH, and with its source defined the one question left is
whether an access is refused. -/
theorem runningCommandCompletes : Obligations.RunningCommandCompletes := by
  intro s hi hf hsched hb hsrc
  obtain ⟨L, hL⟩ := Option.isSome_iff_exists.mp (hi.latch_busy.trans hb)
  obtain ⟨hflags, _⟩ := hi.status
  obtain ⟨hdone, herr⟩ := hflags hb
  have hstep := step_of_engine hf (nextMove_busy hb hsched)
  cases ha : accessRefused (popTurn s) L with
  | true =>
    rw [engineStep_of_refused (s := popTurn s) hL ha] at hstep
    exact ⟨_, hstep, rfl, rfl, hf, .inr ⟨hdone, rfl, rfl⟩⟩
  | false =>
    obtain ⟨bs, _, he⟩ := engineStep_of_defined (s := popTurn s) hL (hi.latch_valid L hL) (hsrc L hL) ha
    rw [he] at hstep
    exact ⟨_, hstep, rfl, rfl, hf, .inl ⟨rfl, herr⟩⟩

/-- Settles O29: a validated record's regions are disjoint, and the engine writes the destination only. -/
theorem sourceIsPreserved : Obligations.SourceIsPreserved := by
  intro s t L hi hL hm h a hbase hstop
  obtain ⟨hf, _⟩ := step_cases h
  cases (step_of_engine hf hm).symm.trans h
  obtain ⟨_, _, _, _, hdisj⟩ := hi.latch_valid L hL
  exact readByte_engineStep (s := popTurn s) fun M hM => by cases hL.symm.trans hM; omega

/-- Settles O18: with a valid setup the checks pass, for both words and both spellings of their CMD writes. -/
theorem validCommandIsAccepted : Obligations.ValidCommandIsAccepted := by
  intro s hb hv accepted
  have hcmd {v : Word} {op : Mode} (hop : modeOf v = some op) : respondAck (cmdWrite v s) = accepted v op := by
    rw [cmdWrite_of_validSetup hop hb hv]; rfl
  exact ⟨congrArg _ (hcmd modeOf_one), congrArg _ (hcmd modeOf_one), congrArg _ (hcmd modeOf_two),
    congrArg _ (hcmd modeOf_two)⟩

/-- Settles O24: every arm of exec answers a next state, and an instruction's frame holds all these fields. -/
theorem noInstructionTouchesMemory : Obligations.NoInstructionTouchesMemory := by
  intro i s
  obtain ⟨t, ht⟩ := exec_next i s
  have hframe := exec_frame ht
  exact ⟨t, ht, fun a => by rw [hframe], by rw [hframe], by rw [hframe], by rw [hframe], by rw [hframe],
    by rw [hframe]⟩

/-- Settles O34: the floor of a quotient of naturals is their division, which is monotone. -/
theorem nearestCoordinateLaw : Obligations.NearestCoordinateLaw := by
  intro s dd hs _
  refine ⟨fun d hd => ⟨?_, Nat.le_sub_one_of_lt (nearestIndex_lt hd hs)⟩, fun d e hde _ => ?_⟩
  · rw [← mul_div_assoc, ← Nat.cast_mul, Nat.floor_div_eq_div, nearestIndex]
  · exact Nat.div_le_div_right (Nat.mul_le_mul_right s hde)

/-- Settles O35: `i0` and `r` are the quotient and the remainder of the scaled coordinate's numerator. -/
theorem bilinearCoordinateLaw : Obligations.BilinearCoordinateLaw := by
  intro d s dd hs hdd hd
  obtain ⟨ha, hi, hr⟩ := axis_of_two_le (d := d) (s := s) hdd
  have hlt := axis_r_lt (s := s) hd
  have hpos : (0 : ℚ) < (axis d s dd).a := Nat.cast_pos.mpr (axis_a_pos hd)
  have hscaled : (d : ℚ) * (((s : ℚ) - 1) / ((dd : ℚ) - 1)) = ((d * (s - 1) : Nat) : ℚ) / ((dd - 1 : Nat) : ℚ) := by
    rw [Nat.cast_mul, Nat.cast_sub hs, Nat.cast_sub (by omega : 1 ≤ dd), Nat.cast_one, mul_div_assoc]
  have hdivmod : (axis d s dd).a * (axis d s dd).i0 + (axis d s dd).r = d * (s - 1) := by
    rw [ha, hi, hr, Nat.div_add_mod]
  refine ⟨?_, hlt, div_nonneg (Nat.cast_nonneg _) hpos.le, (div_lt_one hpos).mpr (Nat.cast_lt.mpr hlt), ?_⟩
  · rw [hscaled, ← hdivmod, ← ha, Nat.cast_add, Nat.cast_mul, add_div, mul_div_cancel_left₀ _ hpos.ne']
  · rw [hscaled, Nat.floor_div_eq_div, hi]

/-- Settles O36: the floor of the blend is `S` over the divisor, and that fits a byte. -/
theorem bilinearBlendLaw : Obligations.BilinearBlendLaw := by
  intro m L p p00 p10 p01 p11 hdx hdy x y h00 h10 h01 h11 fx fy
  have hx : x.r < x.a := axis_r_lt hdx
  have hy : y.r < y.a := axis_r_lt hdy
  have hbyte (b : Byte) : b.toNat ≤ 255 := Nat.le_of_lt_succ b.isLt
  have hfit := blendSum_div_le hx.le hy.le (hbyte p00) (hbyte p10) (hbyte p01) (hbyte p11)
  refine ⟨_, sampleOf_bilinearPlan (x := x) (y := y) rfl rfl h00 h10 h01 h11, ?_⟩
  rw [← blendSum_div_cast hx hy, Nat.floor_div_eq_div, BitVec.toNat_ofNat, Nat.mod_eq_of_lt (Nat.lt_succ_of_le hfit)]

/-- Settles O37: the weights add up to the divisor, so `S` is at most 255 times it, and the rest is the width of the
dimensions. -/
theorem datapathWidthLaw : Obligations.DatapathWidthLaw := by
  intro dx dy sw sh dw dh w h c hdx hdy hsw hsh hdw hdh hw hh hc x y
  have hx : x.r ≤ x.a := (axis_r_lt hdx).le
  have hy : y.r ≤ y.a := (axis_r_lt hdy).le
  have hxy : x.a * y.a ≤ 65534 * 65534 := Nat.mul_le_mul (axis_a_le hdw) (axis_a_le hdh)
  have hcol : dx * sw ≤ 65534 * 65535 := Nat.mul_le_mul (by omega) hsw
  have hcol1 : dx * (sw - 1) ≤ dx * sw := Nat.mul_le_mul_left dx (Nat.sub_le sw 1)
  have hsize : w * h * c ≤ 65535 * 65535 * 7 := Nat.mul_le_mul (Nat.mul_le_mul hw hh) hc
  refine ⟨by omega, by omega, by omega, by omega, fun p00 p10 p01 p11 h00 h10 h01 h11 => ?_, by omega, by omega⟩
  have hS : blendSum x y p00 p10 p01 p11 ≤ 255 * (x.a * y.a) := blendSum_le hx hy h00 h10 h01 h11
  exact ⟨hS.trans_eq (Nat.mul_assoc ..).symm, hS.trans_lt (by omega), blendSum_div_le hx hy h00 h10 h01 h11⟩

/-- Settles O40: each index is below its dimension, and a sample of in-range coordinates lies in its buffer. -/
theorem addressLaw : Obligations.AddressLaw := by
  intro limit L dx dy c hv hx hy hc
  obtain ⟨hw, hh⟩ := hv.src_pos
  exact ⟨Nat.le_sub_one_of_lt (nearestIndex_lt hx hw), Nat.le_sub_one_of_lt (nearestIndex_lt hy hh),
    Nat.le_sub_one_of_lt (axis_i0_lt hx hw), Nat.le_sub_one_of_lt (axis_i1_lt hw),
    Nat.le_sub_one_of_lt (axis_i0_lt hy hh), Nat.le_sub_one_of_lt (axis_i1_lt hh),
    fun _ hp => planAt_tap_bounds hv hx hy hc hp, Buffer.addr_bounds hx hy hc⟩

/-- Settles O20: RESIZE.NN and RESIZE.BL are CMD writes, and a CMD write that finds BUSY = 1 is dropped. -/
theorem commandWhileBusyIsDropped : Obligations.CommandWhileBusyIsDropped := by
  intro s v hb dropped
  have hcmd (w : Word) : respondAck (cmdWrite w s) = dropped := by rw [cmdWrite_busy hb]; rfl
  exact ⟨congrArg _ (hcmd v), congrArg _ (hcmd _), congrArg _ (hcmd _)⟩
end

section
/-! SUPPORT. The words a register read returns and the fields a register write stores, by the weight of their bits
(41_register_access.md R140, R141), and the registers from step to step (R143). -/

namespace Sys2Proof.Machine

/-! Words of the window as numbers. -/

/-- In a concatenation the left part weighs as much as the right part is wide. -/
theorem toNat_append_weight {m n : Nat} (x : BitVec m) (y : BitVec n) :
    (x ++ y).toNat = x.toNat * 2 ^ n + y.toNat := by
  rw [BitVec.toNat_append, ← Nat.shiftLeft_add_eq_or_of_lt y.isLt, Nat.shiftLeft_eq]

theorem statusWord_eq (st : Status) :
    statusWord st = BitVec.ofNat 32 (st.busy.toNat + 2 * st.done.toNat + 4 * st.err.toNat + 8 * st.dropped.toNat
      + 256 * st.errCode.toNat) := by
  rw [statusWord, ← BitVec.ofNat_toNat]
  simp only [toNat_append_weight, BitVec.toNat_ofBool, BitVec.toNat_ofNat]
  congr 1
  omega

theorem dimWord_eq (w h : BitVec 16) : dimWord w h = BitVec.ofNat 32 (w.toNat + 65536 * h.toNat) := by
  rw [dimWord, ← BitVec.ofNat_toNat, toNat_append_weight]
  congr 1
  omega

theorem lowThree_eq (d : Word) : lowThree d = BitVec.ofNat 3 d.toNat := rfl

theorem lowHalf_eq (d : Word) : lowHalf d = BitVec.ofNat 16 d.toNat := rfl

theorem highHalf_eq (d : Word) : highHalf d = BitVec.ofNat 16 (d.toNat / 65536) := by
  rw [highHalf, BitVec.extractLsb', Nat.shiftRight_eq_div_pow]

/-! The registers as the host reads them. -/

/-- The word that a read of the register returns (41_register_access.md R140). -/
def readWord (s : State) : Reg → Word
  | .id       => Config.blockId
  | .cmd      => 0#32
  | .status   => statusWord s.status
  | .irqEn    => BitVec.setWidth 32 s.irqEn
  | .srcBase  => s.srcBase
  | .srcDim   => dimWord s.srcW s.srcH
  | .srcCh    => BitVec.setWidth 32 s.ch
  | .dstBase  => s.dstBase
  | .dstDim   => dimWord s.dstW s.dstH
  | .cmdLatch => s.cmdLatch

theorem exec_decodeRead_readWord (r : Reg) (s : State) :
    exec (decodeRead r) s = .next (s.setResp (.data (readWord s r))) := by
  cases r <;> rfl

theorem exec_decodeRead_eq_iff {r : Reg} {s : State} {w : Word} :
    exec (decodeRead r) s = .next (s.setResp (.data w)) ↔ readWord s r = w := by
  rw [exec_decodeRead_readWord]
  refine ⟨fun h => ?_, fun h => by rw [h]⟩
  have hresp := congrArg State.resp (Host.Outcome.next.inj h)
  exact BusResp.data.inj hresp

/-- A register read by the host, like an access that stands for no instruction, writes no register. -/
theorem hostBus_read_frame {x : Option Temp} {a : Access} {s u : State} (hd : a.dir = .read)
    (h : hostBus x a s = .next u) : u = { s with resp := u.resp, host := u.host, faults := u.faults } := by
  rcases hostBus_cases h with ⟨i, v, hi, hv, rfl⟩ | ⟨_, rfl⟩ | ⟨_, rfl⟩
  · obtain ⟨r, _, _, ⟨_, rfl⟩ | ⟨hw, _⟩⟩ := decode_instr hi
    · cases (exec_decodeRead_readWord r s).symm.trans hv
      rw [loadTemp_eq]; rfl
    · cases hd.symm.trans hw
  · rw [hd, loadTemp_eq]; rfl
  · rfl

/-- A step that is no host write to the window, no engine step and no reset writes no register of the block. -/
theorem step_frame_of_no_register_write {s t : State} (h : step s = .next t) (he : nextMove s ≠ .engine)
    (hr : nextMove s ≠ .reset)
    (hrd : ∀ (x : Option Temp) (a : Access), nextMove s = .host (.bus x a) → a.dir = .read) :
    t = { s with mem := t.mem, faults := t.faults, resp := t.resp, host := t.host, sched := t.sched } := by
  obtain ⟨_, h⟩ := step_cases h
  cases hm : nextMove s with
  | reset => exact absurd hm hr
  | engine => exact absurd hm he
  | idle => rw [hm] at h; cases h; rfl
  | host x =>
    rw [hm] at h
    by_cases hx : ∃ y a, x = .bus y a
    · obtain ⟨y, a, rfl⟩ := hx
      rw [hostBus_read_frame (hrd y a hm) h]; rfl
    · rw [hostStmt_frame (fun y a hb => hx ⟨y, a, hb⟩) h]; rfl

/-! STATUS writes. -/

/-- A STATUS write changes STATUS alone (41_register_access.md R141). -/
theorem exec_regWrStatus_of_eq {s : State} {d : Word} {st : Status} (h : statusWrite d s.status = st) :
    exec (.regWrStatus d) s = .next { s with resp := .ack, status := st } := by
  rw [← h]; rfl

/-- While BUSY = 1, DONE, ERR and ERR_CODE are 0 (40_resize.md R100). -/
theorem Status.Legal.flags_of_busy {st : Status} (h : st.Legal) (hb : st.busy = true) :
    st.done = false ∧ st.err = false ∧ st.errCode = 0#4 := by
  obtain ⟨hbusy, _, hcode, _⟩ := h
  obtain ⟨hdone, herr⟩ := hbusy hb
  exact ⟨hdone, herr, hcode.mp herr⟩

end Sys2Proof.Machine
end

section
/-! PROOFS. The statements of 41_register_access.md: register reads (R140), register writes and their corner cases
(R141), and what keeps the registers as they are (R143). -/

open Sys2Proof Sys2Proof.Machine

/-- Settles O12: each read returns the register's word, and a word's value is the weighted sum of its fields. -/
theorem registerReadsReturnTheirValue : Obligations.RegisterReadsReturnTheirValue := by
  intro s
  have hread (r : Reg) {w : Word} (hw : readWord s r = w) :
      exec (decodeRead r) s = .next { s with resp := .data w } := exec_decodeRead_eq_iff.mpr hw
  exact ⟨hread .id rfl, hread .cmd rfl, hread .status (statusWord_eq _), hread .irqEn (BitVec.ofNat_toNat ..).symm,
    hread .srcBase rfl, hread .srcDim (dimWord_eq ..), hread .srcCh (BitVec.ofNat_toNat ..).symm, hread .dstBase rfl,
    hread .dstDim (dimWord_eq ..), hread .cmdLatch rfl⟩

/-- Settles O13: such a step writes no register, and a read's word and IRQ are computed from the registers alone. -/
theorem registerValuesAreStable : Obligations.RegisterValuesAreStable := by
  intro s t h he hr hrd
  have ht := step_frame_of_no_register_write h he hr hrd
  constructor
  · intro r w hw
    rw [exec_decodeRead_eq_iff] at hw ⊢
    rw [ht, ← hw]
    cases r <;> rfl
  · rw [ht]; rfl

/-- Settles O14: a field of the data word is the word's number shifted and truncated to the field's width. -/
theorem configurationWritesStoreTheirFields : Obligations.ConfigurationWritesStoreTheirFields := by
  intro s d
  rw [← lowThree_eq, ← lowHalf_eq, ← highHalf_eq]
  exact ⟨rfl, rfl, rfl, rfl, rfl, rfl, rfl, rfl⟩

/-- Settles O17: DONE, ERR and ERR_CODE are already 0, so of the bits written only DROPPED's has an effect. -/
theorem statusWriteWhileBusyClearsOnlyDropped : Obligations.StatusWriteWhileBusyClearsOnlyDropped := by
  intro s hi hb
  obtain ⟨hdone, herr, hcode⟩ := hi.status.flags_of_busy hb
  exact exec_regWrStatus_of_eq (by simp [statusWrite_eq, hdone, herr, hcode])

/-- Settles O25: a command writes CMD_LATCH, LATCH and STATUS, a STATUS write keeps BUSY, and every other instruction
writes at most the register it names. -/
theorem registersChangeOnlyByTheirWrites : Obligations.RegistersChangeOnlyByTheirWrites := by
  intro i s t h
  cases i with
  | resizeNn | resizeBl | regWrCmd _ => cases h; rw [cmdWrite_frame]; simp [respondAck]
  | regWrStatus d => cases h; simp [respondAck, statusWrite_eq]
  | _ => cases h; simp [respondAck, respondData]

/-- Settles O15: the three clearing steps of a STATUS write, taken together. -/
theorem statusWritesClearByOnes : Obligations.StatusWritesClearByOnes := fun s d =>
  exec_regWrStatus_of_eq (statusWrite_eq d s.status)
end

section
/-! SUPPORT. ERR_CODE as the first failing check leaves it (60_exceptions.md R160, R161), what can lower IRQ (R167,
R168), and the fault list under each agent's move (R175). -/

namespace Sys2Proof.Machine

/-! The error of a command. -/

/-- ERR_CODE of the check that failed; NONE where every check passed (60_exceptions.md R160). -/
def checkCode : Option ErrCause → Nat
  | none   => 0
  | some e => e.code.toNat

/-- The check that `Validate` answers as the error, if one fails. -/
def failedCheck (v : Word) (s : State) : Option ErrCause :=
  match validate v s with
  | .error e => some e
  | .ok _    => none

theorem modeOf_eq_none_iff {v : Word} : modeOf v = none ↔ v.toNat ≠ 1 ∧ v.toNat ≠ 2 := by
  by_cases h1 : v.toNat = 1
  · simp [modeOf, BitVec.toNat_eq, h1]
  · by_cases h2 : v.toNat = 2 <;> simp [modeOf, BitVec.toNat_eq, h1, h2]

theorem failedCheck_of_no_mode {v : Word} {s : State} (h : modeOf v = none) :
    failedCheck v s = some .illegalCommand := by
  simp [failedCheck, validate, h]

theorem failedCheck_of_mode {v : Word} {s : State} {op : Mode} (h : modeOf v = some op) :
    failedCheck v s = checkOperands (addrLimit s.platform) (operands op s) := by
  cases hc : checkOperands (addrLimit s.platform) (operands op s) <;> simp [failedCheck, validate, h, hc]

/-- The chain of 60_exceptions.md R161 on a record, over naturals. -/
theorem checkCode_checkOperands (limit : Nat) (L : Latch) :
    checkCode (checkOperands limit L) =
      if L.sw.toNat = 0 ∨ L.sh.toNat = 0 then 6
      else if ¬(L.ch.toNat = 1 ∨ L.ch.toNat = 3 ∨ L.ch.toNat = 4) then 2
      else if L.dw.toNat = 0 ∨ L.dh.toNat = 0 then 1
      else if L.src.stop > limit ∨ L.dst.stop > limit then 3
      else if L.src.base < L.dst.stop ∧ L.dst.base < L.src.stop then 5
      else 0 := by
  simp only [checkOperands, apply_ite checkCode, BitVec.toNat_eq]
  rfl

/-- A CMD write that finds BUSY = 0 leaves the failed check in ERR and ERR_CODE, or raises BUSY (40_resize.md R100). -/
theorem cmdWrite_status_of_idle {v : Word} {s : State} (hb : s.status.busy = false) :
    (cmdWrite v s).status.errCode.toNat = checkCode (failedCheck v s)
      ∧ ((cmdWrite v s).status.err = true ↔ checkCode (failedCheck v s) ≠ 0)
      ∧ ((cmdWrite v s).status.busy = true ↔ checkCode (failedCheck v s) = 0)
      ∧ (cmdWrite v s).status.done = false
      ∧ (cmdWrite v s).status.dropped = s.status.dropped := by
  rcases cmdWrite_cases v s with ⟨hbusy, _⟩ | ⟨_, L, hv, hc⟩ | ⟨_, e, hv, hc⟩
  · cases hb.symm.trans hbusy
  · simp [hc, failedCheck, hv, checkCode]
  · have hne : e.code.toNat ≠ 0 := fun h => e.code_ne_zero (BitVec.eq_of_toNat_eq h)
    simp [hc, failedCheck, hv, checkCode, hb, hne]

/-! What can lower IRQ. -/

/-- IRQ stays high where no enabled flag falls (10_state.md R40). -/
theorem irq_of_flags_kept {s t : State} (h : irq s = true) (hen : t.irqEn = s.irqEn)
    (hdone : s.status.done = true → t.status.done = true) (herr : s.status.err = true → t.status.err = true)
    (hdrop : s.status.dropped = true → t.status.dropped = true) : irq t = true := by
  simp only [irq, State.doneIe, State.errIe, State.droppedIe, hen, Bool.or_eq_true, Bool.and_eq_true] at h ⊢
  exact h.imp (Or.imp (And.imp_left hdone) (And.imp_left herr)) (And.imp_left hdrop)

theorem irq_congr {s t : State} (hst : t.status = s.status) (hen : t.irqEn = s.irqEn) : irq t = irq s := by
  simp only [irq, State.doneIe, State.errIe, State.droppedIe, hst, hen]

/-- The engine only sets DONE or ERR (40_resize.md R104). -/
theorem irq_engineStep {s : State} (h : irq s = true) : irq (engineStep s) = true := by
  rcases engineStep_cases s with ⟨_, he⟩ | ⟨L, _, he | ⟨bs, _, he⟩ | he⟩ <;> rw [he]
  · exact h
  · exact irq_of_flags_kept h rfl id (fun _ => rfl) id
  · exact irq_of_flags_kept h rfl (fun _ => rfl) id id
  · exact (irq_congr rfl rfl).trans h

/-- The instructions that IRQ can change with: a write to STATUS or IRQ_EN, and a command. -/
theorem exec_changes_irq {i : Instr} {s t : State} (h : exec i s = .next t) (hi : irq t ≠ irq s) :
    ∃ d, i = .regWrStatus d ∨ i = .regWrIrqEn d ∨ i = .resizeNn ∨ i = .resizeBl ∨ i = .regWrCmd d := by
  obtain ⟨hen, _, _, _, _, _, _, hst⟩ := registersChangeOnlyByTheirWrites i s t h
  by_cases he : t.irqEn = s.irqEn
  · rcases hst fun hs => hi (irq_congr hs he) with rfl | rfl | ⟨d, rfl⟩ | ⟨d, rfl⟩
    · exact ⟨0#32, .inr (.inr (.inl rfl))⟩
    · exact ⟨0#32, .inr (.inr (.inr (.inl rfl)))⟩
    · exact ⟨d, .inr (.inr (.inr (.inr rfl)))⟩
    · exact ⟨d, .inl rfl⟩
  · obtain ⟨d, rfl⟩ := hen he
    exact ⟨d, .inr (.inl rfl)⟩

theorem irq_advance_loadTemp (x : Option Temp) (s : State) : irq (advance (loadTemp x s)) = irq s := by
  rw [loadTemp_eq]; rfl

/-- Of the accesses to the window, only those that stand for such an instruction change IRQ. -/
theorem hostBus_changes_irq {x : Option Temp} {a : Access} {s u : State} (h : hostBus x a s = .next u)
    (hi : irq u ≠ irq s) :
    ∃ d, decode a = .instr (.regWrStatus d) ∨ decode a = .instr (.regWrIrqEn d)
      ∨ decode a = .instr .resizeNn ∨ decode a = .instr .resizeBl ∨ decode a = .instr (.regWrCmd d) := by
  rcases hostBus_cases h with ⟨i, v, hd, hv, rfl⟩ | ⟨_, rfl⟩ | ⟨_, rfl⟩
  · rw [irq_advance_loadTemp] at hi
    obtain ⟨d, hinstr⟩ := exec_changes_irq hv hi
    exact ⟨d, by simpa [hd] using hinstr⟩
  · rw [irq_advance_loadTemp] at hi
    cases hdir : a.dir <;> exact absurd (by rw [hdir]; rfl) hi
  · exact absurd rfl hi

/-! The fault list. -/

/-- A branch, taken or not, moves the host only. -/
theorem hostStmt_branchOn_frame {v : Bool} {t : Temp} {b : Fin 32} {l : Label} {s u : State}
    (h : hostStmt (branchOn v t b l) s = .next u) : u = { s with host := u.host } := by
  by_cases hv : (s.host.temps.get t).getLsbD b = v
  · obtain ⟨_, _, rfl⟩ := jump_cases ((hostStmt_branchOn_taken l hv).symm.trans h)
    rfl
  · cases (hostStmt_branchOn_not_taken l hv).symm.trans h
    rfl

/-- A host statement records at most one fault, in front of those recorded before. -/
theorem hostStmt_faults {x : Stmt} {s u : State} (h : hostStmt x s = .next u) :
    u.faults = s.faults ∨ ∃ f, u.faults = f :: s.faults := by
  cases x with
  | bus t a =>
    rcases hostBus_cases h with ⟨i, v, _, hv, rfl⟩ | ⟨_, rfl⟩ | ⟨_, rfl⟩
    · rw [loadTemp_eq, exec_frame hv]; exact .inl rfl
    · rw [loadTemp_eq]; cases a.dir <;> exact .inl rfl
    · exact .inr ⟨_, rfl⟩
  | wrmem a bs =>
    cases h
    obtain ⟨m, _, hw | ⟨f, hw⟩⟩ := hostWrite_cases a.toNat bs s <;> rw [hw]
    · exact .inl rfl
    · exact .inr ⟨f, rfl⟩
  | rdmem t a =>
    cases h
    rcases hostRead_cases t a.toNat s with ⟨_, _, _, hr⟩ | ⟨f, hr⟩ <;> rw [hr]
    · exact .inl rfl
    · exact .inr ⟨f, rfl⟩
  | bset t b l => rw [hostStmt_branchOn_frame (v := true) h]; exact .inl rfl
  | bclr t b l => rw [hostStmt_branchOn_frame (v := false) h]; exact .inl rfl
  | fence => cases h; exact .inl rfl
  | halt => cases h; exact .inl rfl
  | label l => cases h; exact .inl rfl

/-- An agent's move records at most one fault, in front of those recorded before (60_exceptions.md R175). -/
theorem perform_faults {m : Move} {s t : State} (h : perform m s = .next t) :
    t.faults = s.faults ∨ ∃ f, t.faults = f :: s.faults := by
  cases m with
  | reset => cases h; exact .inl rfl
  | idle => cases h; exact .inl rfl
  | host x => exact hostStmt_faults h
  | engine =>
    cases h
    rcases engineStep_cases s with ⟨_, he⟩ | ⟨L, _, he | ⟨bs, _, he⟩ | he⟩ <;> rw [he]
    · exact .inl rfl
    · exact .inl rfl
    · exact .inl rfl
    · exact .inr ⟨_, rfl⟩

theorem perform_faults_append {m : Move} {s t : State} (h : perform m s = .next t) :
    ∃ new : List Fault, t.faults = new ++ s.faults := by
  rcases perform_faults h with ht | ⟨f, ht⟩
  · exact ⟨[], ht⟩
  · exact ⟨[f], ht⟩

theorem step_of_fault {s : State} {f : Fault} {r : List Fault} (h : s.faults = f :: r) : step s = .fault f := by
  simp [step, h]

end Sys2Proof.Machine
end

section
/-! PROOFS. The statements of 60_exceptions.md: the checks of a command and its rejection (R161, R164), the interrupt
output (R167, R168) and the model faults (R175). -/

open Sys2Proof Sys2Proof.Machine

/-- Settles O21: an illegal word fails the first check of the chain, and a legal one leaves it to its operands. -/
theorem errorIsTheFirstFailingCheck : Obligations.ErrorIsTheFirstFailingCheck := by
  intro s v hb sb db ssize dsize code
  have hcode : checkCode (failedCheck v s) = code := by
    cases hop : modeOf v with
    | none =>
      rw [failedCheck_of_no_mode hop]
      exact (if_pos (modeOf_eq_none_iff.mp hop)).symm
    | some op =>
      have hlegal : ¬(v.toNat ≠ 1 ∧ v.toNat ≠ 2) := by rw [← modeOf_eq_none_iff, hop]; nofun
      rw [failedCheck_of_mode hop, checkCode_checkOperands]
      exact (if_neg hlegal).symm
  rw [← hcode]
  exact ⟨_, rfl, cmdWrite_status_of_idle hb⟩

/-- Settles O22: of what a CMD write can do while BUSY = 0, a rejection alone leaves ERR = 1. -/
theorem rejectionWritesOnlyStatusAndCmdLatch : Obligations.RejectionWritesOnlyStatusAndCmdLatch := by
  intro s t v hb h herr
  cases h
  rcases cmdWrite_cases v s with ⟨hbusy, _⟩ | ⟨_, L, _, hc⟩ | ⟨_, e, hv, _⟩
  · cases hb.symm.trans hbusy
  · rw [hc] at herr; cases herr
  · rw [cmdWrite_of_error hb hv]; exact ⟨rfl, rfl⟩

/-- Settles O46: the engine lowers no flag, and of the host's statements an access to the window alone writes STATUS
or IRQ_EN. -/
theorem irqFallsOnlyByTheHost : Obligations.IrqFallsOnlyByTheHost := by
  intro s t _ h hs ht
  have hpop : irq (popTurn s) = true := hs
  have hfall : irq t ≠ irq (popTurn s) := by rw [ht, hpop]; nofun
  obtain ⟨_, hmove⟩ := step_cases h
  cases hm : nextMove s with
  | reset => exact .inl rfl
  | idle => rw [hm] at hmove; cases hmove; exact absurd rfl hfall
  | engine =>
    rw [hm] at hmove; cases hmove
    exact absurd (irq_engineStep hpop) (by rw [ht]; nofun)
  | host x =>
    rw [hm] at hmove
    by_cases hx : ∃ y a, x = .bus y a
    · obtain ⟨y, a, rfl⟩ := hx
      obtain ⟨d, hd⟩ := hostBus_changes_irq hmove hfall
      exact .inr ⟨y, a, d, rfl, hd⟩
    · have hframe := hostStmt_frame (fun y a he => hx ⟨y, a, he⟩) hmove
      exact absurd (by rw [hframe]; rfl) hfall

/-- Settles O7: a move puts at most one fault in front of the list, and a step looks at the list first. -/
theorem recordedFaultsAreNeverCleared : Obligations.RecordedFaultsAreNeverCleared := by
  refine ⟨fun _ _ _ h => perform_faults_append h, fun s t h => ?_, fun _ _ _ h => step_of_fault h⟩
  obtain ⟨_, hmove⟩ := step_cases h
  exact perform_faults_append (s := popTurn s) hmove
end

section
/-! SUPPORT. The region hazard rule byte by byte (70_reset_and_hazards.md R200), sample memory after a reset (R192,
R193), a command that finds SRC_W = 0 (R195), and the machine with its schedule used up (R206, R207). -/

namespace Sys2Proof.Machine

/-! The regions of a validated command (60_exceptions.md R161). -/

theorem Buffer.contains_iff {b : Buffer} {a : Nat} : b.contains a = true ↔ b.base ≤ a ∧ a < b.stop := by
  simp [Buffer.contains]

theorem Latch.Valid.lt_limit {limit : Nat} {L : Latch} (h : L.Valid limit) {a : Nat}
    (ha : L.src.contains a = true ∨ L.dst.contains a = true) : a < limit := by
  obtain ⟨_, _, hsrc, hdst, _⟩ := h
  rcases ha with ha | ha
  · exact (Buffer.contains_iff.mp ha).2.trans_le hsrc
  · exact (Buffer.contains_iff.mp ha).2.trans_le hdst

/-- The regions are disjoint, so a source byte is no destination byte. -/
theorem Latch.Valid.dst_contains_eq_false {limit : Nat} {L : Latch} (h : L.Valid limit) {a : Nat}
    (hs : L.src.contains a = true) : L.dst.contains a = false := by
  obtain ⟨_, _, _, _, hdisj⟩ := h
  rw [Buffer.contains_iff] at hs
  rw [Bool.eq_false_iff, ne_eq, Buffer.contains_iff]
  omega

/-! Host accesses that meet a region (70_reset_and_hazards.md R200). -/

theorem breaksRegionRule_of_latch {s : State} {L : Latch} (hL : s.latch = some L) (d : Dir) (a : Nat) :
    breaksRegionRule s d a = (L.dst.contains a || (d == .write && L.src.contains a)) := by
  simp [breaksRegionRule, hL]

theorem hostAccessFault_hazard {s : State} {d : Dir} {a : Nat} (ha : a < addrLimit s.platform)
    (hw : inWindow s.platform a = false) (hb : breaksRegionRule s d a = true) :
    hostAccessFault s d a = some .hazard := by
  simp [hostAccessFault, Nat.not_le.mpr ha, hw, hb]

/-- A host write of a byte of either region is a HAZARD off the window (log entry 31). -/
theorem hostAccessFault_write_hazard {s : State} {L : Latch} {a : Nat} (hL : s.latch = some L)
    (hv : L.Valid (addrLimit s.platform)) (hw : inWindow s.platform a = false)
    (hr : L.src.contains a = true ∨ L.dst.contains a = true) :
    hostAccessFault s .write a = some .hazard := by
  refine hostAccessFault_hazard (hv.lt_limit hr) hw ?_
  rcases hr with hr | hr <;> simp [breaksRegionRule_of_latch hL, hr]

/-- A host read of a destination byte is a HAZARD off the window (log entry 31). -/
theorem hostAccessFault_read_hazard {s : State} {L : Latch} {a : Nat} (hL : s.latch = some L)
    (hv : L.Valid (addrLimit s.platform)) (hw : inWindow s.platform a = false)
    (hd : L.dst.contains a = true) : hostAccessFault s .read a = some .hazard :=
  hostAccessFault_hazard (hv.lt_limit (.inr hd)) hw (by simp [breaksRegionRule_of_latch hL, hd])

/-! Sample memory after a reset (70_reset_and_hazards.md R192, R193). -/

theorem memAfterReset_of_idle {s : State} (h : s.latch = none) : memAfterReset s = s.mem := by
  simp [memAfterReset, h]

theorem readByte_memAfterReset {s : State} {L : Latch} (hL : s.latch = some L) (a : Nat) :
    readByte (memAfterReset s) a = if L.dst.base ≤ a ∧ a < L.dst.stop then none else readByte s.mem a := by
  rw [memAfterReset, hL]
  exact readByte_undefRange ..

theorem step_of_reset {s : State} (hf : s.faults = []) (hm : nextMove s = .reset) :
    step s = .next (blockReset (popTurn s)) := by
  rw [step_of_safe hf, hm, perform]

/-! A command with SRC_W = 0 (60_exceptions.md R161). -/

theorem validate_invalidSource {v : Word} {s : State} {op : Mode} (hop : modeOf v = some op)
    (hw : s.srcW = 0#16) : validate v s = .error .invalidSource :=
  validate_of_check hop (if_pos (.inl hw))

/-! The schedule used up. -/

theorem popTurn_of_used_up {s : State} (hs : s.sched = []) : popTurn s = s := by
  rw [popTurn_eq, hs, List.tail_nil, ← hs]

/-- With HALT executed and BUSY = 0, no agent is left to move (70_reset_and_hazards.md R207). -/
theorem nextMove_idle {s : State} (hh : s.host.halted = true) (hb : s.status.busy = false) (hs : s.sched = []) :
    nextMove s = .idle := by
  simp [nextMove, hs, engineFirst, hb, nextStmt, hh]

end Sys2Proof.Machine
end

section
/-! PROOFS. The statements of 70_reset_and_hazards.md: the reset values and the reset (R190, R192, R193), a command
straight after it (R195), the region hazard rule (R200), and the end of a run (R207). -/

open Sys2Proof Sys2Proof.Machine

/-- Settles O54: the engine's completion lowers BUSY and leaves the host halted, and then no agent is enabled. -/
theorem haltedRunContinuesToItsEnd : Obligations.HaltedRunContinuesToItsEnd := by
  refine ⟨fun s hi hf hsched hh hb hsrc => ⟨?_, ?_⟩, fun s hover hsched => ?_⟩
  · rintro ⟨_, hidle, _⟩
    cases hb.symm.trans hidle
  · obtain ⟨t, hstep, hidle, _, hsafe, _⟩ := runningCommandCompletes s hi hf hsched hb hsrc
    have hhost : t.host = s.host := by
      cases (step_of_engine hf (nextMove_busy hb hsched)).symm.trans hstep
      rw [engineStep_frame]
      rfl
    exact ⟨t, hstep, hhost ▸ hh, hidle, hsafe⟩
  · obtain ⟨hh, hidle, hf⟩ := hover
    rw [step_of_safe hf, nextMove_idle hh hidle hsched, perform, popTurn_of_used_up hsched]

/-- Settles O55: the regions of a validated record are disjoint and lie in the address space, so off the window the
hazard rule alone decides the access. -/
theorem regionHazard : Obligations.RegionHazard := by
  intro s L t a v hi hf hL
  have hv : L.Valid (addrLimit s.platform) := hi.latch_valid L hL
  refine ⟨fun pre post hm => ?_, fun hw hm hd => ?_, fun hw hm hs hb => ?_⟩
  · intro b hw hr hpre
    have hlt : b < addrLimit s.platform := hv.lt_limit hr
    have hnone : ∀ k, k < pre.length → hostAccessFault (popTurn s) .write (a.toNat + k) = none := fun k hk => by
      obtain ⟨hwin, hreg⟩ := hpre k hk
      exact hostAccessFault_write_none (s := popTurn s) ((Nat.add_lt_add_left hk _).trans hlt) hwin
        fun M hM => by cases hL.symm.trans hM; exact hreg
    obtain ⟨m, hstore, hin, hout, hnil⟩ := hostWrite_append (v :: post) hnone
    have hfault : hostAccessFault ((popTurn s).setMem m) .write b = some .hazard :=
      hostAccessFault_write_hazard (s := (popTurn s).setMem m) hL hv hw hr
    refine ⟨m, ?_, hin, hout, hnil⟩
    rw [step_of_host hf hm, hostStmt, hstore, hostWrite_fault hfault, ← hf]
    rfl
  · have hfault : hostAccessFault (popTurn s) .read a.toNat = some .hazard :=
      hostAccessFault_read_hazard (s := popTurn s) hL hv hw hd
    rw [step_of_host hf hm, hostStmt, hostRead_fault hfault, ← hf]
    rfl
  · obtain ⟨hdefined, _⟩ := hostReadLoadsTheByte s t a hf hm (hv.lt_limit (.inl hs)) hw
      fun M hM => by cases hL.symm.trans hM; exact hv.dst_contains_eq_false hs
    exact hdefined v hb

/-- Settles O59: the reset's step writes the reset values, and of sample memory the running command's destination
alone, which is disjoint from its source. -/
theorem resetPutsTheBlockInItsResetState : Obligations.ResetPutsTheBlockInItsResetState := by
  intro s hi hf hm
  refine ⟨_, step_of_reset hf hm, rfl, rfl, rfl, rfl, rfl, rfl, rfl, rfl, rfl, rfl, rfl, rfl,
    irq_eq_false_of_reset (blockReset_status _), memAfterReset_of_idle (s := popTurn s), fun L hL => ?_⟩
  obtain ⟨_, _, _, _, hdisj⟩ := hi.latch_valid L hL
  have hread := readByte_memAfterReset (s := popTurn s) hL
  refine ⟨fun a hbase hstop => ?_, fun a hbase hstop => ?_, fun a hout => ?_⟩
  · exact (hread a).trans (if_neg (by omega))
  · exact (hread a).trans (if_pos ⟨hbase, hstop⟩)
  · exact (hread a).trans (if_neg (by omega))

/-- Settles O23: a reset leaves BUSY = 0 and SRC_W = 0, so the word decides which check fails first. -/
theorem commandStraightAfterReset : Obligations.CommandStraightAfterReset := by
  intro s h
  have hb : s.status.busy = false := by rcases h with rfl | ⟨u, rfl⟩ <;> rfl
  have hw : s.srcW = 0#16 := by rcases h with rfl | ⟨u, rfl⟩ <;> rfl
  have hreject {v : Word} {e : ErrCause} (he : validate v s = .error e) :
      (respondAck (cmdWrite v s)).status.err = true
        ∧ (respondAck (cmdWrite v s)).status.errCode = e.code := by
    rw [cmdWrite_of_error hb he]
    exact ⟨rfl, rfl⟩
  obtain ⟨herr, hcode⟩ := hreject (validate_invalidSource modeOf_one hw)
  exact ⟨⟨_, rfl, herr, hcode, hw⟩, ⟨_, rfl, hreject (validate_invalidSource modeOf_two hw)⟩,
    fun v h1 h2 => ⟨_, rfl, hreject (validate_illegal h1 h2 s)⟩⟩

/-- Settles O60: the reset state's fields are written out, and its memory lists no byte. -/
theorem firstStateHoldsTheResetValues : Obligations.FirstStateHoldsTheResetValues :=
  ⟨rfl, rfl, rfl, rfl, rfl, rfl, rfl, rfl, rfl, rfl, irq_eq_false_of_reset rfl, readByte_nil⟩
end
